-- ==== Sys2Proof/Word.lean ====
section
/-! DEFINITION. The word types of the decoder block and nothing else: R7 gives their widths. -/

namespace Sys2Proof

/-- One byte of a byte stream (R28). -/
abbrev Byte := BitVec 8

/-- One 16-bit code unit of the instruction stream (R7 `UNIT`, R25). -/
abbrev CodeUnit := BitVec 16

/-- One 32-bit instruction word (R7 `WORD`). -/
abbrev Word := BitVec 32

/-- A register specifier, 0 to 31 (R7 `NREG`, R13). It names a register; no register is stored. -/
abbrev RegIndex := BitVec 5

end Sys2Proof
end

