-- ==== Sys2Proof/Syntax.lean ====
section
/-! DEFINITION. The syntax of the decoder block: `Instr`, one constructor per row of `spec/opcode_table.json`, and the
tag enumerations of `10_state.md` (R15 to R19). A constructor of `Instr` holds every bit of the word that its row does not
fix, the don't-care bits of R61 included, because `R_INSN.WORD` latches the word verbatim (R27). -/

namespace Sys2Proof

/-- One instruction word of the opcode table. `rd`, `rs1`, `rs2`, `shamt`, `funct3`, `funct7` are the fields of R40;
`imm` and `offset` are the immediates of R47 to R51 before sign extension; `rest` is a field nothing consults. -/
inductive Instr where
  -- U, J and I formats (`41_upper_jumps.md`)
  | lui    (rd : RegIndex) (imm : BitVec 20)
  | auipc  (rd : RegIndex) (imm : BitVec 20)
  | jal    (rd : RegIndex) (offset : BitVec 21)
  | jalr   (rd rs1 : RegIndex) (imm : BitVec 12) (funct3 : BitVec 3)
  -- B format (`42_branches.md`)
  | beq    (rs1 rs2 : RegIndex) (offset : BitVec 13)
  | bne    (rs1 rs2 : RegIndex) (offset : BitVec 13)
  | blt    (rs1 rs2 : RegIndex) (offset : BitVec 13)
  | bge    (rs1 rs2 : RegIndex) (offset : BitVec 13)
  | bltu   (rs1 rs2 : RegIndex) (offset : BitVec 13)
  | bgeu   (rs1 rs2 : RegIndex) (offset : BitVec 13)
  -- loads and stores (`43_loads_stores.md`)
  | lb     (rd rs1 : RegIndex) (offset : BitVec 12)
  | lh     (rd rs1 : RegIndex) (offset : BitVec 12)
  | lw     (rd rs1 : RegIndex) (offset : BitVec 12)
  | lbu    (rd rs1 : RegIndex) (offset : BitVec 12)
  | lhu    (rd rs1 : RegIndex) (offset : BitVec 12)
  | sb     (rs2 rs1 : RegIndex) (offset : BitVec 12)
  | sh     (rs2 rs1 : RegIndex) (offset : BitVec 12)
  | sw     (rs2 rs1 : RegIndex) (offset : BitVec 12)
  -- ALU with immediate (`44_alu_imm.md`)
  | addi   (rd rs1 : RegIndex) (imm : BitVec 12)
  | slti   (rd rs1 : RegIndex) (imm : BitVec 12)
  | sltiu  (rd rs1 : RegIndex) (imm : BitVec 12)
  | xori   (rd rs1 : RegIndex) (imm : BitVec 12)
  | ori    (rd rs1 : RegIndex) (imm : BitVec 12)
  | andi   (rd rs1 : RegIndex) (imm : BitVec 12)
  | slli   (rd rs1 : RegIndex) (shamt : BitVec 5) (funct7 : BitVec 7)
  | srli   (rd rs1 : RegIndex) (shamt : BitVec 5)
  | srai   (rd rs1 : RegIndex) (shamt : BitVec 5)
  -- ALU register-register (`45_alu_reg.md`)
  | add    (rd rs1 rs2 : RegIndex)
  | sub    (rd rs1 rs2 : RegIndex)
  | sll    (rd rs1 rs2 : RegIndex) (funct7 : BitVec 7)
  | slt    (rd rs1 rs2 : RegIndex) (funct7 : BitVec 7)
  | sltu   (rd rs1 rs2 : RegIndex) (funct7 : BitVec 7)
  | xor    (rd rs1 rs2 : RegIndex) (funct7 : BitVec 7)
  | srl    (rd rs1 rs2 : RegIndex)
  | sra    (rd rs1 rs2 : RegIndex)
  | or     (rd rs1 rs2 : RegIndex) (funct7 : BitVec 7)
  | and    (rd rs1 rs2 : RegIndex) (funct7 : BitVec 7)
  -- FENCE group and SYSTEM (`46_fence_system.md`)
  | fence  (rest : BitVec 25)
  | ecall  (rest : BitVec 13)
  | ebreak (rest : BitVec 13)
deriving DecidableEq, Repr

/-- The three length classes of code unit 0 (R37). -/
inductive LenClass where
  | compressed16
  | wide48Plus
  | len32
deriving DecidableEq, Repr

/-- The opcode tags of R15. `fence` and the twelve 64-bit tags are declared and never produced. -/
inductive Opcode where
  | invalid
  | lui | auipc | jal | jalr
  | beq | bne | blt | bge | bltu | bgeu
  | lb | lh | lw | lbu | lhu | sb | sh | sw
  | addi | slti | sltiu | xori | ori | andi | slli | srli | srai
  | add | sub | sll | slt | sltu | xor | srl | sra | or | and
  | fence | ecall | ebreak
  | lwu | ld | sd | addiw | slliw | srliw | sraiw | addw | subw | sllw | srlw | sraw
deriving DecidableEq, Repr

/-- The field-spec tags of R17, internal to the block. -/
inductive FieldSpec where
  | rs1 | rs2 | rd | shamt | imm12I | imm12S | imm12B | imm20U | imm20J
deriving DecidableEq, Repr

/-- The operand-spec tags of R16. -/
inductive OperandSpec where
  | nothing | rs1 | rs2 | rd | imm12I | imm12S | imm12B | imm20U | imm20J
  | baseOffsetRs1I | baseOffsetRs1S | shamt
deriving DecidableEq, Repr

/-- The operand layout of one instruction: its three operand specs (R7 `NSPEC`, R58). -/
structure Layout where
  spec0 : OperandSpec
  spec1 : OperandSpec
  spec2 : OperandSpec
deriving DecidableEq, Repr

/-- A resolved operand (R18, R54). `imm`, `jOffset` and the offset of `baseOffset` are signed and read with `toInt`;
`shift` and `longImm` are unsigned and read with `toNat`. -/
inductive Operand where
  | reg        (index : RegIndex)
  | imm        (value : BitVec 32)
  | baseOffset (base : RegIndex) (offset : BitVec 16)
  | shift      (amount : BitVec 8)
  | longImm    (value : BitVec 32)
  | jOffset    (value : BitVec 32)
deriving DecidableEq, Repr

/-- The resolved-operand kinds of R18. -/
inductive OperandKind where
  | none | reg | imm | baseOffset | shift | longImm | jOffset
deriving DecidableEq, Repr

/-- The decode status of R19. `none` is "no decode since reset". -/
inductive Status where
  | none | ok | streamExhausted | unsupportedEncoding | invalidOpcode
deriving DecidableEq, Repr

/-- The unsupported sub-reason of R19. `none` is "not an unsupported result". -/
inductive UReason where
  | none | compressed16 | wide48Plus | fenceGroup
deriving DecidableEq, Repr

end Sys2Proof
end

