-- ==== Sys2Proof/WellFormed.lean ====
section
/-! DEFINITION. Which terms of `Instr` stand for a word. The field widths do most of the work (every register specifier is
legal, R13; every immediate field is full). What is left is the implied zero: bit 0 of a branch or jump displacement is
always 0 (R31, R49, R51). -/

namespace Sys2Proof

/-- An instruction that some 32-bit word encodes: its displacement, where it has one, is even (R31). -/
def Instr.WellFormed : Instr → Bool
  | .jal _ offset => !offset.getLsbD 0
  | .beq _ _ offset => !offset.getLsbD 0
  | .bne _ _ offset => !offset.getLsbD 0
  | .blt _ _ offset => !offset.getLsbD 0
  | .bge _ _ offset => !offset.getLsbD 0
  | .bltu _ _ offset => !offset.getLsbD 0
  | .bgeu _ _ offset => !offset.getLsbD 0
  | .lui _ _ | .auipc _ _ | .jalr _ _ _ _ => true
  | .lb _ _ _ | .lh _ _ _ | .lw _ _ _ | .lbu _ _ _ | .lhu _ _ _ => true
  | .sb _ _ _ | .sh _ _ _ | .sw _ _ _ => true
  | .addi _ _ _ | .slti _ _ _ | .sltiu _ _ _ | .xori _ _ _ | .ori _ _ _ | .andi _ _ _ => true
  | .slli _ _ _ _ | .srli _ _ _ | .srai _ _ _ => true
  | .add _ _ _ | .sub _ _ _ | .srl _ _ _ | .sra _ _ _ => true
  | .sll _ _ _ _ | .slt _ _ _ _ | .sltu _ _ _ _ | .xor _ _ _ _ | .or _ _ _ _ | .and _ _ _ _ => true
  | .fence _ | .ecall _ | .ebreak _ => true

end Sys2Proof
end

