-- ==== Sys2Proof/Decode.lean ====
section
/-! DEFINITION. The decoder, from code units to `Instr` or a rejection by name, and after it the encoder. Both are written
from the fields and formats of `30_encoding.md` (R40, R41, R47 to R51) and the dispatch table (R58). -/

namespace Sys2Proof

/-! ### The fields of a word (R40) and its immediates (R47 to R51) -/

/-- The major opcode, `w[6:0]` (R40). -/
def majorOf (w : Word) : BitVec 7 := w.extractLsb' 0 7
/-- `rd`, `w[11:7]` (R45). -/
def rdOf (w : Word) : RegIndex := w.extractLsb' 7 5
/-- funct3, `w[14:12]` (R40). -/
def funct3Of (w : Word) : BitVec 3 := w.extractLsb' 12 3
/-- `rs1`, `w[19:15]` (R43). -/
def rs1Of (w : Word) : RegIndex := w.extractLsb' 15 5
/-- `rs2`, `w[24:20]` (R44). -/
def rs2Of (w : Word) : RegIndex := w.extractLsb' 20 5
/-- The shift amount, `w[24:20]`: "same bit position as `Rs2`" (R46). -/
def shamtOf (w : Word) : BitVec 5 := w.extractLsb' 20 5
/-- funct7, `w[31:25]` (R40). -/
def funct7Of (w : Word) : BitVec 7 := w.extractLsb' 25 7
/-- The SYSTEM sub-key, `w[31:20]` (R40). -/
def systemKeyOf (w : Word) : BitVec 12 := w.extractLsb' 20 12
/-- `w[19:7]`, the don't-care bits of ECALL and EBREAK (R61). -/
def systemRestOf (w : Word) : BitVec 13 := w.extractLsb' 7 13
/-- `w[31:7]`, the bits of a FENCE word that nothing consults (R114). -/
def fenceRestOf (w : Word) : BitVec 25 := w.extractLsb' 7 25

/-- The 12 bits of `Imm12I`, `w[31:20]` (R47). -/
def immIOf (w : Word) : BitVec 12 := w.extractLsb' 20 12
/-- The 12 bits of `Imm12S`, `{w[31:25], w[11:7]}` (R48). -/
def immSOf (w : Word) : BitVec 12 := w.extractLsb' 25 7 ++ w.extractLsb' 7 5
/-- The 13 bits of `Imm12B`, `{w[31], w[7], w[30:25], w[11:8], 0}` (R49). -/
def immBOf (w : Word) : BitVec 13 :=
  w.extractLsb' 31 1 ++ w.extractLsb' 7 1 ++ w.extractLsb' 25 6 ++ w.extractLsb' 8 4 ++ 0#1
/-- The 20 stored bits of `Imm20U`, `w[31:12]` (R50). -/
def immUOf (w : Word) : BitVec 20 := w.extractLsb' 12 20
/-- The 21 bits of `Imm20J`, `{w[31], w[19:12], w[20], w[30:21], 0}` (R51). -/
def immJOf (w : Word) : BitVec 21 :=
  w.extractLsb' 31 1 ++ w.extractLsb' 12 8 ++ w.extractLsb' 20 1 ++ w.extractLsb' 21 10 ++ 0#1

/-! ### Length class and dispatch -/

/-- The length class, from code unit 0 alone (R37). -/
def lenClass (cu0 : CodeUnit) : LenClass :=
  if cu0.extractLsb' 0 2 ≠ 0b11#2 then .compressed16
  else if cu0.extractLsb' 2 3 = 0b111#3 then .wide48Plus
  else .len32

/-- The B-type group: funct3 selects; `010` and `011` are invalid (R58, R71). -/
def decodeBranch (w : Word) : Option Instr :=
  if funct3Of w = 0b000#3 then some (.beq (rs1Of w) (rs2Of w) (immBOf w))
  else if funct3Of w = 0b001#3 then some (.bne (rs1Of w) (rs2Of w) (immBOf w))
  else if funct3Of w = 0b100#3 then some (.blt (rs1Of w) (rs2Of w) (immBOf w))
  else if funct3Of w = 0b101#3 then some (.bge (rs1Of w) (rs2Of w) (immBOf w))
  else if funct3Of w = 0b110#3 then some (.bltu (rs1Of w) (rs2Of w) (immBOf w))
  else if funct3Of w = 0b111#3 then some (.bgeu (rs1Of w) (rs2Of w) (immBOf w))
  else none

/-- The Load group: funct3 selects; `011`, `110` and `111` are invalid (R58, R79). -/
def decodeLoad (w : Word) : Option Instr :=
  if funct3Of w = 0b000#3 then some (.lb (rdOf w) (rs1Of w) (immIOf w))
  else if funct3Of w = 0b001#3 then some (.lh (rdOf w) (rs1Of w) (immIOf w))
  else if funct3Of w = 0b010#3 then some (.lw (rdOf w) (rs1Of w) (immIOf w))
  else if funct3Of w = 0b100#3 then some (.lbu (rdOf w) (rs1Of w) (immIOf w))
  else if funct3Of w = 0b101#3 then some (.lhu (rdOf w) (rs1Of w) (immIOf w))
  else none

/-- The Store group: funct3 selects; `011` to `111` are invalid (R58, R86). -/
def decodeStore (w : Word) : Option Instr :=
  if funct3Of w = 0b000#3 then some (.sb (rs2Of w) (rs1Of w) (immSOf w))
  else if funct3Of w = 0b001#3 then some (.sh (rs2Of w) (rs1Of w) (immSOf w))
  else if funct3Of w = 0b010#3 then some (.sw (rs2Of w) (rs1Of w) (immSOf w))
  else none

/-- The ALU-imm group: funct3, then funct7 for `101`; SLLI does not consult funct7 (R58, R91). -/
def decodeAluImm (w : Word) : Option Instr :=
  if funct3Of w = 0b000#3 then some (.addi (rdOf w) (rs1Of w) (immIOf w))
  else if funct3Of w = 0b010#3 then some (.slti (rdOf w) (rs1Of w) (immIOf w))
  else if funct3Of w = 0b011#3 then some (.sltiu (rdOf w) (rs1Of w) (immIOf w))
  else if funct3Of w = 0b100#3 then some (.xori (rdOf w) (rs1Of w) (immIOf w))
  else if funct3Of w = 0b110#3 then some (.ori (rdOf w) (rs1Of w) (immIOf w))
  else if funct3Of w = 0b111#3 then some (.andi (rdOf w) (rs1Of w) (immIOf w))
  else if funct3Of w = 0b001#3 then some (.slli (rdOf w) (rs1Of w) (shamtOf w) (funct7Of w))
  else if funct7Of w = 0b0000000#7 then some (.srli (rdOf w) (rs1Of w) (shamtOf w))
  else if funct7Of w = 0b0100000#7 then some (.srai (rdOf w) (rs1Of w) (shamtOf w))
  else none

/-- The ALU-reg group: funct3, then funct7 for `000` and `101` only (R58, R102). -/
def decodeAluReg (w : Word) : Option Instr :=
  if funct3Of w = 0b000#3 then
    if funct7Of w = 0b0000000#7 then some (.add (rdOf w) (rs1Of w) (rs2Of w))
    else if funct7Of w = 0b0100000#7 then some (.sub (rdOf w) (rs1Of w) (rs2Of w))
    else none
  else if funct3Of w = 0b101#3 then
    if funct7Of w = 0b0000000#7 then some (.srl (rdOf w) (rs1Of w) (rs2Of w))
    else if funct7Of w = 0b0100000#7 then some (.sra (rdOf w) (rs1Of w) (rs2Of w))
    else none
  else if funct3Of w = 0b001#3 then some (.sll (rdOf w) (rs1Of w) (rs2Of w) (funct7Of w))
  else if funct3Of w = 0b010#3 then some (.slt (rdOf w) (rs1Of w) (rs2Of w) (funct7Of w))
  else if funct3Of w = 0b011#3 then some (.sltu (rdOf w) (rs1Of w) (rs2Of w) (funct7Of w))
  else if funct3Of w = 0b100#3 then some (.xor (rdOf w) (rs1Of w) (rs2Of w) (funct7Of w))
  else if funct3Of w = 0b110#3 then some (.or (rdOf w) (rs1Of w) (rs2Of w) (funct7Of w))
  else some (.and (rdOf w) (rs1Of w) (rs2Of w) (funct7Of w))

/-- The SYSTEM group: only `w[31:20]` is consulted (R58, R115). -/
def decodeSystem (w : Word) : Option Instr :=
  if systemKeyOf w = 0x000#12 then some (.ecall (systemRestOf w))
  else if systemKeyOf w = 0x001#12 then some (.ebreak (systemRestOf w))
  else none

/-- The dispatcher over a word of the 32-bit class: the major opcode selects the group (R58); no match is
`none`. A FENCE word is recognised as a row of the table; that it is reported as unsupported is its meaning (R114). -/
def decodeWord (w : Word) : Option Instr :=
  if majorOf w = 0b0110111#7 then some (.lui (rdOf w) (immUOf w))
  else if majorOf w = 0b0010111#7 then some (.auipc (rdOf w) (immUOf w))
  else if majorOf w = 0b1101111#7 then some (.jal (rdOf w) (immJOf w))
  else if majorOf w = 0b1100111#7 then some (.jalr (rdOf w) (rs1Of w) (immIOf w) (funct3Of w))
  else if majorOf w = 0b1100011#7 then decodeBranch w
  else if majorOf w = 0b0000011#7 then decodeLoad w
  else if majorOf w = 0b0100011#7 then decodeStore w
  else if majorOf w = 0b0010011#7 then decodeAluImm w
  else if majorOf w = 0b0110011#7 then decodeAluReg w
  else if majorOf w = 0b0001111#7 then some (.fence (fenceRestOf w))
  else if majorOf w = 0b1110011#7 then decodeSystem w
  else none

/-! ### Code units and bytes -/

/-- Why the decoder finds no instruction, each with the units it read (R39, R140). -/
inductive Reject where
  /-- The stream ends before unit 0. -/
  | noUnit0
  /-- Unit 0 is in the 16-bit space. -/
  | compressed16 (cu0 : CodeUnit)
  /-- Unit 0 is in the 48-bit-and-wider space. -/
  | wide48Plus (cu0 : CodeUnit)
  /-- The stream ends before unit 1 of a word in the 32-bit class. -/
  | noUnit1 (cu0 : CodeUnit)
  /-- The word matches no entry of the dispatch table. -/
  | invalidOpcode (w : Word)
deriving DecidableEq, Repr

/-- What the decoder reads from the stream: an instruction of the table, or a rejection by name. -/
inductive Decoded where
  | instr  (i : Instr)
  | reject (r : Reject)
deriving DecidableEq, Repr

/-- The word of two code units, unit 0 in the low half (R27). -/
def wordOfUnits (cu0 cu1 : CodeUnit) : Word := cu1 ++ cu0

/-- The decoder over a whole word. -/
def decodeWhole (w : Word) : Decoded :=
  match decodeWord w with
  | some i => .instr i
  | none => .reject (.invalidOpcode w)

/-- The decoder over the two next units of the stream, `none` where the stream has ended. The tests run in the order of
R39; unit 1 is read in the 32-bit class only (R26). -/
def decodeUnits (unit0 unit1 : Option CodeUnit) : Decoded :=
  match unit0 with
  | none => .reject .noUnit0
  | some cu0 =>
    match lenClass cu0 with
    | .compressed16 => .reject (.compressed16 cu0)
    | .wide48Plus => .reject (.wide48Plus cu0)
    | .len32 =>
      match unit1 with
      | none => .reject (.noUnit1 cu0)
      | some cu1 => decodeWhole (wordOfUnits cu0 cu1)

/-- Code unit `k` of a byte stream, the little-endian pair `b[2k] | b[2k+1] << 8` (R28). A trailing odd byte is no
unit (R156). -/
def unitAt (bytes : List Byte) (k : Nat) : Option CodeUnit :=
  match bytes.drop (2 * k) with
  | lo :: hi :: _ => some (hi ++ lo)
  | _ => none

/-- The decoder at the head of a byte stream, total on any bytes. -/
def decodeBytes (bytes : List Byte) : Decoded :=
  decodeUnits (unitAt bytes 0) (unitAt bytes 1)

/-- The four bytes of a word in stream order, lowest first (R28). -/
def bytesOfWord (w : Word) : List Byte :=
  [w.extractLsb' 0 8, w.extractLsb' 8 8, w.extractLsb' 16 8, w.extractLsb' 24 8]

/-- The word whose low `nbits` bits are those of `w`, the bits above them zero. -/
def tableWord (nbits w : Nat) : Word := BitVec.ofNat 32 (w % 2 ^ nbits)

/-- The instruction the decoder reads from a row of the opcode table: bit 0 is the least significant bit of the first
unit. The word is laid out as the stream holds it and handed to `decodeBytes`. -/
def decodeTableWord (nbits w : Nat) : Option Instr :=
  match decodeBytes (bytesOfWord (tableWord nbits w)) with
  | .instr i => some i
  | .reject _ => none

/-! ### The encoder, from the format rows of R41 -/

/-- The R and I-shift rows of R41: funct7, rs2 or shamt, rs1, funct3, rd, opcode. -/
def packR (funct7 : BitVec 7) (rs2 rs1 : BitVec 5) (funct3 : BitVec 3) (rd : RegIndex) (major : BitVec 7) : Word :=
  funct7 ++ rs2 ++ rs1 ++ funct3 ++ rd ++ major

/-- The I row of R41: imm[11:0], rs1, funct3, rd, opcode. -/
def packI (imm : BitVec 12) (rs1 : RegIndex) (funct3 : BitVec 3) (rd : RegIndex) (major : BitVec 7) : Word :=
  imm ++ rs1 ++ funct3 ++ rd ++ major

/-- The S row of R41: imm[11:5], rs2, rs1, funct3, imm[4:0], opcode. -/
def packS (imm : BitVec 12) (rs2 rs1 : RegIndex) (funct3 : BitVec 3) (major : BitVec 7) : Word :=
  imm.extractLsb' 5 7 ++ rs2 ++ rs1 ++ funct3 ++ imm.extractLsb' 0 5 ++ major

/-- The B row of R41: imm[12], imm[10:5], rs2, rs1, funct3, imm[4:1], imm[11], opcode. -/
def packB (imm : BitVec 13) (rs2 rs1 : RegIndex) (funct3 : BitVec 3) (major : BitVec 7) : Word :=
  imm.extractLsb' 12 1 ++ imm.extractLsb' 5 6 ++ rs2 ++ rs1 ++ funct3 ++ imm.extractLsb' 1 4 ++ imm.extractLsb' 11 1 ++
    major

/-- The U row of R41: imm[31:12], rd, opcode. -/
def packU (imm : BitVec 20) (rd : RegIndex) (major : BitVec 7) : Word :=
  imm ++ rd ++ major

/-- The J row of R41: imm[20], imm[10:1], imm[11], imm[19:12], rd, opcode. -/
def packJ (imm : BitVec 21) (rd : RegIndex) (major : BitVec 7) : Word :=
  imm.extractLsb' 20 1 ++ imm.extractLsb' 1 10 ++ imm.extractLsb' 11 1 ++ imm.extractLsb' 12 8 ++ rd ++ major

/-- The SYSTEM row of R41: the sub-key, the bits not consulted, opcode. -/
def packSystem (key : BitVec 12) (rest : BitVec 13) (major : BitVec 7) : Word :=
  key ++ rest ++ major

/-- A FENCE word: nothing but the major opcode is consulted (R114). -/
def packFence (rest : BitVec 25) (major : BitVec 7) : Word :=
  rest ++ major

/-- The word of an instruction: the fixed bits of its rule's `match`, its fields in their places. -/
def encode : Instr → Word
  | .lui rd imm => packU imm rd 0b0110111#7
  | .auipc rd imm => packU imm rd 0b0010111#7
  | .jal rd offset => packJ offset rd 0b1101111#7
  | .jalr rd rs1 imm funct3 => packI imm rs1 funct3 rd 0b1100111#7
  | .beq rs1 rs2 offset => packB offset rs2 rs1 0b000#3 0b1100011#7
  | .bne rs1 rs2 offset => packB offset rs2 rs1 0b001#3 0b1100011#7
  | .blt rs1 rs2 offset => packB offset rs2 rs1 0b100#3 0b1100011#7
  | .bge rs1 rs2 offset => packB offset rs2 rs1 0b101#3 0b1100011#7
  | .bltu rs1 rs2 offset => packB offset rs2 rs1 0b110#3 0b1100011#7
  | .bgeu rs1 rs2 offset => packB offset rs2 rs1 0b111#3 0b1100011#7
  | .lb rd rs1 offset => packI offset rs1 0b000#3 rd 0b0000011#7
  | .lh rd rs1 offset => packI offset rs1 0b001#3 rd 0b0000011#7
  | .lw rd rs1 offset => packI offset rs1 0b010#3 rd 0b0000011#7
  | .lbu rd rs1 offset => packI offset rs1 0b100#3 rd 0b0000011#7
  | .lhu rd rs1 offset => packI offset rs1 0b101#3 rd 0b0000011#7
  | .sb rs2 rs1 offset => packS offset rs2 rs1 0b000#3 0b0100011#7
  | .sh rs2 rs1 offset => packS offset rs2 rs1 0b001#3 0b0100011#7
  | .sw rs2 rs1 offset => packS offset rs2 rs1 0b010#3 0b0100011#7
  | .addi rd rs1 imm => packI imm rs1 0b000#3 rd 0b0010011#7
  | .slti rd rs1 imm => packI imm rs1 0b010#3 rd 0b0010011#7
  | .sltiu rd rs1 imm => packI imm rs1 0b011#3 rd 0b0010011#7
  | .xori rd rs1 imm => packI imm rs1 0b100#3 rd 0b0010011#7
  | .ori rd rs1 imm => packI imm rs1 0b110#3 rd 0b0010011#7
  | .andi rd rs1 imm => packI imm rs1 0b111#3 rd 0b0010011#7
  | .slli rd rs1 shamt funct7 => packR funct7 shamt rs1 0b001#3 rd 0b0010011#7
  | .srli rd rs1 shamt => packR 0b0000000#7 shamt rs1 0b101#3 rd 0b0010011#7
  | .srai rd rs1 shamt => packR 0b0100000#7 shamt rs1 0b101#3 rd 0b0010011#7
  | .add rd rs1 rs2 => packR 0b0000000#7 rs2 rs1 0b000#3 rd 0b0110011#7
  | .sub rd rs1 rs2 => packR 0b0100000#7 rs2 rs1 0b000#3 rd 0b0110011#7
  | .sll rd rs1 rs2 funct7 => packR funct7 rs2 rs1 0b001#3 rd 0b0110011#7
  | .slt rd rs1 rs2 funct7 => packR funct7 rs2 rs1 0b010#3 rd 0b0110011#7
  | .sltu rd rs1 rs2 funct7 => packR funct7 rs2 rs1 0b011#3 rd 0b0110011#7
  | .xor rd rs1 rs2 funct7 => packR funct7 rs2 rs1 0b100#3 rd 0b0110011#7
  | .srl rd rs1 rs2 => packR 0b0000000#7 rs2 rs1 0b101#3 rd 0b0110011#7
  | .sra rd rs1 rs2 => packR 0b0100000#7 rs2 rs1 0b101#3 rd 0b0110011#7
  | .or rd rs1 rs2 funct7 => packR funct7 rs2 rs1 0b110#3 rd 0b0110011#7
  | .and rd rs1 rs2 funct7 => packR funct7 rs2 rs1 0b111#3 rd 0b0110011#7
  | .fence rest => packFence rest 0b0001111#7
  | .ecall rest => packSystem 0x000#12 rest 0b1110011#7
  | .ebreak rest => packSystem 0x001#12 rest 0b1110011#7

/-- Code unit 0 of a word, its low half (R27). -/
def lowUnit (w : Word) : CodeUnit := w.extractLsb' 0 16

/-- Code unit 1 of a word, its high half (R27). -/
def highUnit (w : Word) : CodeUnit := w.extractLsb' 16 16

end Sys2Proof
end

