-- ==== Sys2Proof/Machine/Codes.lean ====
section
/-! DEFINITION. The numeric codes of the enumerations on the block's ports (R15, R16, R18, R19). -/

namespace Sys2Proof

/-- The opcode codes of R15. -/
def Opcode.code : Opcode → BitVec 6
  | .invalid => 0
  | .lui => 1
  | .auipc => 2
  | .jal => 3
  | .jalr => 4
  | .beq => 5
  | .bne => 6
  | .blt => 7
  | .bge => 8
  | .bltu => 9
  | .bgeu => 10
  | .lb => 11
  | .lh => 12
  | .lw => 13
  | .lbu => 14
  | .lhu => 15
  | .sb => 16
  | .sh => 17
  | .sw => 18
  | .addi => 19
  | .slti => 20
  | .sltiu => 21
  | .xori => 22
  | .ori => 23
  | .andi => 24
  | .slli => 25
  | .srli => 26
  | .srai => 27
  | .add => 28
  | .sub => 29
  | .sll => 30
  | .slt => 31
  | .sltu => 32
  | .xor => 33
  | .srl => 34
  | .sra => 35
  | .or => 36
  | .and => 37
  | .fence => 38
  | .ecall => 39
  | .ebreak => 40
  | .lwu => 41
  | .ld => 42
  | .sd => 43
  | .addiw => 44
  | .slliw => 45
  | .srliw => 46
  | .sraiw => 47
  | .addw => 48
  | .subw => 49
  | .sllw => 50
  | .srlw => 51
  | .sraw => 52

/-- The tag a decode that succeeds may produce: codes 1 to 37, 39 and 40 (R15). -/
def Opcode.produced (code : BitVec 6) : Bool :=
  (1#6 ≤ code && code ≤ 37#6) || code == 39#6 || code == 40#6

/-- The operand-spec codes of R16. -/
def OperandSpec.code : OperandSpec → BitVec 4
  | .nothing => 0
  | .rs1 => 1
  | .rs2 => 2
  | .rd => 3
  | .imm12I => 4
  | .imm12S => 5
  | .imm12B => 6
  | .imm20U => 7
  | .imm20J => 8
  | .baseOffsetRs1I => 9
  | .baseOffsetRs1S => 10
  | .shamt => 11

/-- The tag a spec code stands for; codes 12 to 15 are unassigned (R16). -/
def OperandSpec.ofCode (code : BitVec 4) : Option OperandSpec :=
  if code = 0 then some .nothing
  else if code = 1 then some .rs1
  else if code = 2 then some .rs2
  else if code = 3 then some .rd
  else if code = 4 then some .imm12I
  else if code = 5 then some .imm12S
  else if code = 6 then some .imm12B
  else if code = 7 then some .imm20U
  else if code = 8 then some .imm20J
  else if code = 9 then some .baseOffsetRs1I
  else if code = 10 then some .baseOffsetRs1S
  else if code = 11 then some .shamt
  else none

/-- The kind codes of R18. -/
def OperandKind.code : OperandKind → BitVec 3
  | .none => 0
  | .reg => 1
  | .imm => 2
  | .baseOffset => 3
  | .shift => 4
  | .longImm => 5
  | .jOffset => 6

/-- The status codes of R19. -/
def Status.code : Status → BitVec 3
  | .none => 0
  | .ok => 1
  | .streamExhausted => 2
  | .unsupportedEncoding => 3
  | .invalidOpcode => 4

/-- The sub-reason codes of R19. -/
def UReason.code : UReason → BitVec 2
  | .none => 0
  | .compressed16 => 1
  | .wide48Plus => 2
  | .fenceGroup => 3

end Sys2Proof
end

