-- ==== Sys2Proof/Machine/Flags.lean ====
section
/-! DEFINITION. The block's one flag, `R_WD` (R62): 1 unless a don't-care bit differs from its standard value. -/

namespace Sys2Proof.Machine

/-- JALR: `w[14:12] = 000` (R62). -/
def wdFunct3 (funct3 : BitVec 3) : Bool := funct3 == 0b000#3

/-- SLLI and the ALU-reg instructions that do not consult funct7: `w[31:25] = 0000000` (R62). -/
def wdFunct7 (funct7 : BitVec 7) : Bool := funct7 == 0b0000000#7

/-- ECALL and EBREAK: `w[19:7] = 0` (R62). -/
def wdSystem (rest : BitVec 13) : Bool := rest == 0#13

/-- `WD(w, opc)` of R62, as one function of the word and the opcode tag. -/
def wellDefined (w : Word) : Opcode → Bool
  | .jalr => wdFunct3 (funct3Of w)
  | .slli | .sll | .slt | .sltu | .xor | .or | .and => wdFunct7 (funct7Of w)
  | .ecall | .ebreak => wdSystem (systemRestOf w)
  | .invalid | .lui | .auipc | .jal | .beq | .bne | .blt | .bge | .bltu | .bgeu
  | .lb | .lh | .lw | .lbu | .lhu | .sb | .sh | .sw
  | .addi | .slti | .sltiu | .xori | .ori | .andi | .srli | .srai | .add | .sub | .srl | .sra | .fence
  | .lwu | .ld | .sd | .addiw | .slliw | .srliw | .sraiw | .addw | .subw | .sllw | .srlw | .sraw => true

/-- The don't-care bits of a decoded word, as a mask (R61). -/
def dontCareMask : Opcode → Word
  | .jalr => 0x00007000#32
  | .slli | .sll | .slt | .sltu | .xor | .or | .and => 0xfe000000#32
  | .ecall | .ebreak => 0x000fff80#32
  | .invalid | .lui | .auipc | .jal | .beq | .bne | .blt | .bge | .bltu | .bgeu
  | .lb | .lh | .lw | .lbu | .lhu | .sb | .sh | .sw
  | .addi | .slti | .sltiu | .xori | .ori | .andi | .srli | .srai | .add | .sub | .srl | .sra | .fence
  | .lwu | .ld | .sd | .addiw | .slliw | .srliw | .sraiw | .addw | .subw | .sllw | .srlw | .sraw => 0#32

end Sys2Proof.Machine
end

