-- ==== Sys2Proof/Config.lean ====
section
/-! DEFINITION. The one thing the spec leaves open for the block: the content of the result register before the first
reset or decode (R153, item I2 of `93_implementation_defined.md`). Each field is a draw of its width, an opaque constant:
nothing can be proved of its value. The block has no configuration input and no open parameter (R7, R154). -/

namespace Sys2Proof.Config

/-- `R_STATUS` at power-up: any value (R153). -/
opaque powerUpStatus : BitVec 3
/-- `R_UREASON` at power-up: any value (R153). -/
opaque powerUpUReason : BitVec 2
/-- `R_UNITS` at power-up: any value (R153). -/
opaque powerUpUnits : BitVec 2
/-- `R_INSN.WORD` at power-up: any value (R153). -/
opaque powerUpWord : Word
/-- `R_INSN.OPC` at power-up: any value (R153). -/
opaque powerUpOpc : BitVec 6
/-- `R_INSN.SPEC0` at power-up: any value (R153). -/
opaque powerUpSpec0 : BitVec 4
/-- `R_INSN.SPEC1` at power-up: any value (R153). -/
opaque powerUpSpec1 : BitVec 4
/-- `R_INSN.SPEC2` at power-up: any value (R153). -/
opaque powerUpSpec2 : BitVec 4
/-- `R_WD` at power-up: any value (R153). -/
opaque powerUpWd : Bool

end Sys2Proof.Config
end

