-- ==== Sys2Proof/Machine/State.lean ====
section
/-! DEFINITION. The state of the decoder block: the result register, its only storage (R20, R24), and what the host drives
on the input ports at the coming edges. Plain data. -/

namespace Sys2Proof.Machine

/-- The result register of R20, field by field at its width: 58 bits. The fields are the codes as the output ports carry
them, because at power-up a field may hold any value of its width, a code no decode produces included (R153). -/
structure ResultReg where
  /-- `R_STATUS` (R19). -/
  status  : BitVec 3
  /-- `R_UREASON` (R19). -/
  ureason : BitVec 2
  /-- `R_UNITS`, the code units the last decode read (R30). -/
  units   : BitVec 2
  /-- `R_INSN.WORD`. -/
  word    : BitVec 32
  /-- `R_INSN.OPC` (R15). -/
  opc     : BitVec 6
  /-- `R_INSN.SPEC0` (R16). -/
  spec0   : BitVec 4
  /-- `R_INSN.SPEC1` (R16). -/
  spec1   : BitVec 4
  /-- `R_INSN.SPEC2` (R16). -/
  spec2   : BitVec 4
  /-- `R_WD` (R62). -/
  wd      : Bool
deriving DecidableEq, Repr

/-- The input ports of R25 at one rising edge of `clk`. -/
structure PortSample where
  rst      : Bool
  req      : Bool
  cu0      : BitVec 16
  cu0Avail : Bool
  cu1      : BitVec 16
  cu1Avail : Bool
deriving DecidableEq, Repr

/-- The machine. `result` is the block's storage. `inputs` is the model's own field: the port values the host drives at the
coming rising edges, nearest first (DESIGN CHOICE, safe: every list of samples is a state, log 1). -/
structure State where
  result : ResultReg
  inputs : List PortSample
deriving DecidableEq, Repr

/-- The reset values of R20 and R152. -/
def ResultReg.reset : ResultReg :=
  { status := 0#3, ureason := 0#2, units := 0#2, word := 0#32, opc := 0#6,
    spec0 := 0#4, spec1 := 0#4, spec2 := 0#4, wd := false }

/-- The machine right after reset: the register at its reset values (R152), nothing driven yet (log 1). -/
def State.reset : State := { result := .reset, inputs := [] }

/-- The machine at power-up, before any reset or decode: every field of the register is a draw (R153; opaque constants,
DESIGN CHOICE, safe, log 5). -/
def State.powerUp (inputs : List PortSample) : State :=
  { result := { status := Config.powerUpStatus, ureason := Config.powerUpUReason, units := Config.powerUpUnits,
                word := Config.powerUpWord, opc := Config.powerUpOpc, spec0 := Config.powerUpSpec0,
                spec1 := Config.powerUpSpec1, spec2 := Config.powerUpSpec2, wd := Config.powerUpWd },
    inputs := inputs }

/-- Faults: none. No input makes the block abort or hang (R142); a decode error is a result in the register (R139, R144),
so nothing raises a fault. Safe: a step that cannot stop hides no behaviour. -/
inductive Fault where
deriving DecidableEq, Repr

/-- Refusals. -/
inductive Refusal where
  /-- Answered by an arm of `exec` whose instruction has no meaning yet, and by nothing else. Safe: the model stops where
  the block goes on. No arm answers it now. -/
  | notModelled (mnemonic : String)
deriving DecidableEq, Repr

end Sys2Proof.Machine
end

