-- ==== Sys2Proof/Machine/Ops.lean ====
section
/-! DEFINITION. The shared operations: sampling the ports, and writing the result register, which every meaning and every
decode error goes through. The block has no memory and no register file, so these are all there is (R12, R24). -/

namespace Sys2Proof.Machine

/-- A step's answer. -/
abbrev Answer := Host.Outcome State Fault Refusal

/-! ### The input ports -/

/-- The ports of an idle host: `req = 0`, `rst = 0` (R155). What the other ports carry is read by nothing then. -/
def PortSample.idle : PortSample :=
  { rst := false, req := false, cu0 := 0, cu0Avail := false, cu1 := 0, cu1Avail := false }

/-- The ports of a reset edge (R151, R155). -/
def PortSample.resetEdge : PortSample := { PortSample.idle with rst := true }

/-- The ports of a decode edge with the stream's next two units, `none` where the stream has ended: `cuK_avail = 0`
and, as in R156, `cuK = 0`. -/
def PortSample.decodeEdge (unit0 unit1 : Option CodeUnit) : PortSample :=
  { rst := false, req := true, cu0 := unit0.getD 0, cu0Avail := unit0.isSome, cu1 := unit1.getD 0, cu1Avail := unit1.isSome }

/-- Unit 0 as the ports present it; `cu0_avail = 0` is the stream's end of input (R25). -/
def PortSample.unit0 (p : PortSample) : Option CodeUnit := if p.cu0Avail then some p.cu0 else none

/-- Unit 1 as the ports present it (R25). -/
def PortSample.unit1 (p : PortSample) : Option CodeUnit := if p.cu1Avail then some p.cu1 else none

/-- What the ports carry at the next edge. With no sample left the host is idle (DESIGN CHOICE, unsafe, log 2). -/
def State.ports (s : State) : PortSample := s.inputs.headD .idle

/-- The edge has passed: its sample is used up. -/
def State.tick (s : State) : State := { s with inputs := s.inputs.tail }

/-- The host drives one more sample, at the edge before all those already scheduled. -/
def State.drive (s : State) (p : PortSample) : State := { s with inputs := p :: s.inputs }

/-! ### Writing the result register (R21) -/

/-- Every field of the register takes the given value. -/
def State.latch (s : State) (r : ResultReg) : State := { s with result := r }

/-- A reset edge (R151): every field takes its reset value. -/
def State.resetRegister (s : State) : State := s.latch .reset

/-- The register of a decode that succeeds: `(OK, 0, 2, w, opc, s0, s1, s2, WD)` (R39). -/
def okResult (w : Word) (opc : Opcode) (layout : Layout) (wd : Bool) : ResultReg :=
  { status := Status.ok.code, ureason := UReason.none.code, units := 2#2, word := w, opc := opc.code,
    spec0 := layout.spec0.code, spec1 := layout.spec1.code, spec2 := layout.spec2.code, wd := wd }

/-- The register of a decode error: `Err(k, r, n, word)` of R39, the opcode Invalid, every spec Nothing, `R_WD = 0`. -/
def errorResult (kind : Status) (reason : UReason) (units : BitVec 2) (word : Word) : ResultReg :=
  { status := kind.code, ureason := reason.code, units := units, word := word, opc := Opcode.invalid.code,
    spec0 := OperandSpec.nothing.code, spec1 := OperandSpec.nothing.code, spec2 := OperandSpec.nothing.code, wd := false }

/-- A decode that succeeds latches its result. -/
def State.latchOk (s : State) (w : Word) (opc : Opcode) (layout : Layout) (wd : Bool) : State :=
  s.latch (okResult w opc layout wd)

/-- A decode error latches its result. This is all an error does: no state is saved and no control moves (R144). -/
def State.latchError (s : State) (kind : Status) (reason : UReason) (units : BitVec 2) (word : Word) : State :=
  s.latch (errorResult kind reason units word)

/-- The result of a decode that finds no instruction, by the rows 1 to 4 and 6 of R140. -/
def rejectResult : Reject → ResultReg
  | .noUnit0 => errorResult .streamExhausted .none 0#2 0#32
  | .compressed16 cu0 => errorResult .unsupportedEncoding .compressed16 1#2 (cu0.setWidth 32)
  | .wide48Plus cu0 => errorResult .unsupportedEncoding .wide48Plus 1#2 (cu0.setWidth 32)
  | .noUnit1 cu0 => errorResult .streamExhausted .none 1#2 (cu0.setWidth 32)
  | .invalidOpcode w => errorResult .invalidOpcode .none 2#2 w

/-- A rejection latches its result. -/
def State.latchReject (s : State) (r : Reject) : State := s.latch (rejectResult r)

end Sys2Proof.Machine
end

