-- ==== Sys2Proof/Machine/AluImm.lean ====
section
/-! DEFINITION. The meanings of ADDI, SLTI, SLTIU, XORI, ORI, ANDI, SLLI, SRLI, SRAI (`44_alu_imm.md`): what the decode of each writes into the result register. -/

namespace Sys2Proof.Machine

/-- ADDI (R92). -/
def execAddi (rd rs1 : RegIndex) (imm : BitVec 12) (s : State) : Answer :=
  .next (s.latchOk (encode (.addi rd rs1 imm)) .addi ⟨.rd, .rs1, .imm12I⟩ true)

/-- SLTI (R93). -/
def execSlti (rd rs1 : RegIndex) (imm : BitVec 12) (s : State) : Answer :=
  .next (s.latchOk (encode (.slti rd rs1 imm)) .slti ⟨.rd, .rs1, .imm12I⟩ true)

/-- SLTIU (R94). -/
def execSltiu (rd rs1 : RegIndex) (imm : BitVec 12) (s : State) : Answer :=
  .next (s.latchOk (encode (.sltiu rd rs1 imm)) .sltiu ⟨.rd, .rs1, .imm12I⟩ true)

/-- XORI (R95). -/
def execXori (rd rs1 : RegIndex) (imm : BitVec 12) (s : State) : Answer :=
  .next (s.latchOk (encode (.xori rd rs1 imm)) .xori ⟨.rd, .rs1, .imm12I⟩ true)

/-- ORI (R96). -/
def execOri (rd rs1 : RegIndex) (imm : BitVec 12) (s : State) : Answer :=
  .next (s.latchOk (encode (.ori rd rs1 imm)) .ori ⟨.rd, .rs1, .imm12I⟩ true)

/-- ANDI (R97). -/
def execAndi (rd rs1 : RegIndex) (imm : BitVec 12) (s : State) : Answer :=
  .next (s.latchOk (encode (.andi rd rs1 imm)) .andi ⟨.rd, .rs1, .imm12I⟩ true)

/-- SLLI (R98). -/
def execSlli (rd rs1 : RegIndex) (shamt : BitVec 5) (funct7 : BitVec 7) (s : State) : Answer :=
  .next (s.latchOk (encode (.slli rd rs1 shamt funct7)) .slli ⟨.rd, .rs1, .shamt⟩ (wdFunct7 funct7))

/-- SRLI (R99). -/
def execSrli (rd rs1 : RegIndex) (shamt : BitVec 5) (s : State) : Answer :=
  .next (s.latchOk (encode (.srli rd rs1 shamt)) .srli ⟨.rd, .rs1, .shamt⟩ true)

/-- SRAI (R100). -/
def execSrai (rd rs1 : RegIndex) (shamt : BitVec 5) (s : State) : Answer :=
  .next (s.latchOk (encode (.srai rd rs1 shamt)) .srai ⟨.rd, .rs1, .shamt⟩ true)

end Sys2Proof.Machine
end

