-- ==== Sys2Proof/Machine/AluReg.lean ====
section
/-! DEFINITION. The meanings of ADD, SUB, SLL, SLT, SLTU, XOR, SRL, SRA, OR, AND (`45_alu_reg.md`): what the decode of each writes into the result register. -/

namespace Sys2Proof.Machine

/-- ADD (R103). -/
def execAdd (rd rs1 rs2 : RegIndex) (s : State) : Answer :=
  .next (s.latchOk (encode (.add rd rs1 rs2)) .add ⟨.rd, .rs1, .rs2⟩ true)

/-- SUB (R104). -/
def execSub (rd rs1 rs2 : RegIndex) (s : State) : Answer :=
  .next (s.latchOk (encode (.sub rd rs1 rs2)) .sub ⟨.rd, .rs1, .rs2⟩ true)

/-- SLL (R105). -/
def execSll (rd rs1 rs2 : RegIndex) (funct7 : BitVec 7) (s : State) : Answer :=
  .next (s.latchOk (encode (.sll rd rs1 rs2 funct7)) .sll ⟨.rd, .rs1, .rs2⟩ (wdFunct7 funct7))

/-- SLT (R106). -/
def execSlt (rd rs1 rs2 : RegIndex) (funct7 : BitVec 7) (s : State) : Answer :=
  .next (s.latchOk (encode (.slt rd rs1 rs2 funct7)) .slt ⟨.rd, .rs1, .rs2⟩ (wdFunct7 funct7))

/-- SLTU (R107). -/
def execSltu (rd rs1 rs2 : RegIndex) (funct7 : BitVec 7) (s : State) : Answer :=
  .next (s.latchOk (encode (.sltu rd rs1 rs2 funct7)) .sltu ⟨.rd, .rs1, .rs2⟩ (wdFunct7 funct7))

/-- XOR (R108). -/
def execXor (rd rs1 rs2 : RegIndex) (funct7 : BitVec 7) (s : State) : Answer :=
  .next (s.latchOk (encode (.xor rd rs1 rs2 funct7)) .xor ⟨.rd, .rs1, .rs2⟩ (wdFunct7 funct7))

/-- SRL (R109). -/
def execSrl (rd rs1 rs2 : RegIndex) (s : State) : Answer :=
  .next (s.latchOk (encode (.srl rd rs1 rs2)) .srl ⟨.rd, .rs1, .rs2⟩ true)

/-- SRA (R110). -/
def execSra (rd rs1 rs2 : RegIndex) (s : State) : Answer :=
  .next (s.latchOk (encode (.sra rd rs1 rs2)) .sra ⟨.rd, .rs1, .rs2⟩ true)

/-- OR (R111). -/
def execOr (rd rs1 rs2 : RegIndex) (funct7 : BitVec 7) (s : State) : Answer :=
  .next (s.latchOk (encode (.or rd rs1 rs2 funct7)) .or ⟨.rd, .rs1, .rs2⟩ (wdFunct7 funct7))

/-- AND (R112). -/
def execAnd (rd rs1 rs2 : RegIndex) (funct7 : BitVec 7) (s : State) : Answer :=
  .next (s.latchOk (encode (.and rd rs1 rs2 funct7)) .and ⟨.rd, .rs1, .rs2⟩ (wdFunct7 funct7))

end Sys2Proof.Machine
end

