-- ==== Sys2Proof/Machine/Branches.lean ====
section
/-! DEFINITION. The meanings of BEQ, BNE, BLT, BGE, BLTU, BGEU (`42_branches.md`): what the decode of each writes into the result register. -/

namespace Sys2Proof.Machine

/-- BEQ (R72). -/
def execBeq (rs1 rs2 : RegIndex) (offset : BitVec 13) (s : State) : Answer :=
  .next (s.latchOk (encode (.beq rs1 rs2 offset)) .beq ⟨.rs1, .rs2, .imm12B⟩ true)

/-- BNE (R73). -/
def execBne (rs1 rs2 : RegIndex) (offset : BitVec 13) (s : State) : Answer :=
  .next (s.latchOk (encode (.bne rs1 rs2 offset)) .bne ⟨.rs1, .rs2, .imm12B⟩ true)

/-- BLT (R74). -/
def execBlt (rs1 rs2 : RegIndex) (offset : BitVec 13) (s : State) : Answer :=
  .next (s.latchOk (encode (.blt rs1 rs2 offset)) .blt ⟨.rs1, .rs2, .imm12B⟩ true)

/-- BGE (R75). -/
def execBge (rs1 rs2 : RegIndex) (offset : BitVec 13) (s : State) : Answer :=
  .next (s.latchOk (encode (.bge rs1 rs2 offset)) .bge ⟨.rs1, .rs2, .imm12B⟩ true)

/-- BLTU (R76). -/
def execBltu (rs1 rs2 : RegIndex) (offset : BitVec 13) (s : State) : Answer :=
  .next (s.latchOk (encode (.bltu rs1 rs2 offset)) .bltu ⟨.rs1, .rs2, .imm12B⟩ true)

/-- BGEU (R77). -/
def execBgeu (rs1 rs2 : RegIndex) (offset : BitVec 13) (s : State) : Answer :=
  .next (s.latchOk (encode (.bgeu rs1 rs2 offset)) .bgeu ⟨.rs1, .rs2, .imm12B⟩ true)

end Sys2Proof.Machine
end

