-- ==== Sys2Proof/Machine/FenceSystem.lean ====
section
/-! DEFINITION. The meanings of FENCE, ECALL, EBREAK (`46_fence_system.md`): what the decode of each writes into the result register. -/

namespace Sys2Proof.Machine

/-- FENCE (R114): the whole group is reported as UnsupportedEncoding with sub-reason FenceGroup, two units read. -/
def execFence (rest : BitVec 25) (s : State) : Answer :=
  .next (s.latchError .unsupportedEncoding .fenceGroup 2#2 (encode (.fence rest)))

/-- ECALL (R116). -/
def execEcall (rest : BitVec 13) (s : State) : Answer :=
  .next (s.latchOk (encode (.ecall rest)) .ecall ⟨.nothing, .nothing, .nothing⟩ (wdSystem rest))

/-- EBREAK (R117). -/
def execEbreak (rest : BitVec 13) (s : State) : Answer :=
  .next (s.latchOk (encode (.ebreak rest)) .ebreak ⟨.nothing, .nothing, .nothing⟩ (wdSystem rest))

end Sys2Proof.Machine
end

