-- ==== Sys2Proof/Machine/LoadsStores.lean ====
section
/-! DEFINITION. The meanings of LB, LH, LW, LBU, LHU, SB, SH, SW (`43_loads_stores.md`): what the decode of each writes into the result register. -/

namespace Sys2Proof.Machine

/-- LB (R80). -/
def execLb (rd rs1 : RegIndex) (offset : BitVec 12) (s : State) : Answer :=
  .next (s.latchOk (encode (.lb rd rs1 offset)) .lb ⟨.rd, .baseOffsetRs1I, .nothing⟩ true)

/-- LH (R81). -/
def execLh (rd rs1 : RegIndex) (offset : BitVec 12) (s : State) : Answer :=
  .next (s.latchOk (encode (.lh rd rs1 offset)) .lh ⟨.rd, .baseOffsetRs1I, .nothing⟩ true)

/-- LW (R82). -/
def execLw (rd rs1 : RegIndex) (offset : BitVec 12) (s : State) : Answer :=
  .next (s.latchOk (encode (.lw rd rs1 offset)) .lw ⟨.rd, .baseOffsetRs1I, .nothing⟩ true)

/-- LBU (R83). -/
def execLbu (rd rs1 : RegIndex) (offset : BitVec 12) (s : State) : Answer :=
  .next (s.latchOk (encode (.lbu rd rs1 offset)) .lbu ⟨.rd, .baseOffsetRs1I, .nothing⟩ true)

/-- LHU (R84). -/
def execLhu (rd rs1 : RegIndex) (offset : BitVec 12) (s : State) : Answer :=
  .next (s.latchOk (encode (.lhu rd rs1 offset)) .lhu ⟨.rd, .baseOffsetRs1I, .nothing⟩ true)

/-- SB (R87). -/
def execSb (rs2 rs1 : RegIndex) (offset : BitVec 12) (s : State) : Answer :=
  .next (s.latchOk (encode (.sb rs2 rs1 offset)) .sb ⟨.rs2, .baseOffsetRs1S, .nothing⟩ true)

/-- SH (R88). -/
def execSh (rs2 rs1 : RegIndex) (offset : BitVec 12) (s : State) : Answer :=
  .next (s.latchOk (encode (.sh rs2 rs1 offset)) .sh ⟨.rs2, .baseOffsetRs1S, .nothing⟩ true)

/-- SW (R89). -/
def execSw (rs2 rs1 : RegIndex) (offset : BitVec 12) (s : State) : Answer :=
  .next (s.latchOk (encode (.sw rs2 rs1 offset)) .sw ⟨.rs2, .baseOffsetRs1S, .nothing⟩ true)

end Sys2Proof.Machine
end

