-- ==== Sys2Proof/Machine/UpperJumps.lean ====
section
/-! DEFINITION. The meanings of LUI, AUIPC, JAL, JALR (`41_upper_jumps.md`): what the decode of each writes into the result register. -/

namespace Sys2Proof.Machine

/-- LUI (R67). -/
def execLui (rd : RegIndex) (imm : BitVec 20) (s : State) : Answer :=
  .next (s.latchOk (encode (.lui rd imm)) .lui ⟨.rd, .imm20U, .nothing⟩ true)

/-- AUIPC (R68). -/
def execAuipc (rd : RegIndex) (imm : BitVec 20) (s : State) : Answer :=
  .next (s.latchOk (encode (.auipc rd imm)) .auipc ⟨.rd, .imm20U, .nothing⟩ true)

/-- JAL (R69). -/
def execJal (rd : RegIndex) (offset : BitVec 21) (s : State) : Answer :=
  .next (s.latchOk (encode (.jal rd offset)) .jal ⟨.rd, .imm20J, .nothing⟩ true)

/-- JALR (R70). -/
def execJalr (rd rs1 : RegIndex) (imm : BitVec 12) (funct3 : BitVec 3) (s : State) : Answer :=
  .next (s.latchOk (encode (.jalr rd rs1 imm funct3)) .jalr ⟨.rd, .rs1, .imm12I⟩ (wdFunct3 funct3))

end Sys2Proof.Machine
end

