-- ==== Sys2Proof/Machine/Dispatch.lean ====
section
/-! DEFINITION. The dispatch from an instruction to its meaning: one arm per constructor, one direct call an arm. -/

namespace Sys2Proof.Machine

def exec (i : Instr) (s : State) : Host.Outcome State Fault Refusal :=
  match i with
  | .lui rd imm => Sys2Proof.Machine.execLui rd imm s
  | .auipc rd imm => Sys2Proof.Machine.execAuipc rd imm s
  | .jal rd offset => Sys2Proof.Machine.execJal rd offset s
  | .jalr rd rs1 imm funct3 => Sys2Proof.Machine.execJalr rd rs1 imm funct3 s
  | .beq rs1 rs2 offset => Sys2Proof.Machine.execBeq rs1 rs2 offset s
  | .bne rs1 rs2 offset => Sys2Proof.Machine.execBne rs1 rs2 offset s
  | .blt rs1 rs2 offset => Sys2Proof.Machine.execBlt rs1 rs2 offset s
  | .bge rs1 rs2 offset => Sys2Proof.Machine.execBge rs1 rs2 offset s
  | .bltu rs1 rs2 offset => Sys2Proof.Machine.execBltu rs1 rs2 offset s
  | .bgeu rs1 rs2 offset => Sys2Proof.Machine.execBgeu rs1 rs2 offset s
  | .lb rd rs1 offset => Sys2Proof.Machine.execLb rd rs1 offset s
  | .lh rd rs1 offset => Sys2Proof.Machine.execLh rd rs1 offset s
  | .lw rd rs1 offset => Sys2Proof.Machine.execLw rd rs1 offset s
  | .lbu rd rs1 offset => Sys2Proof.Machine.execLbu rd rs1 offset s
  | .lhu rd rs1 offset => Sys2Proof.Machine.execLhu rd rs1 offset s
  | .sb rs2 rs1 offset => Sys2Proof.Machine.execSb rs2 rs1 offset s
  | .sh rs2 rs1 offset => Sys2Proof.Machine.execSh rs2 rs1 offset s
  | .sw rs2 rs1 offset => Sys2Proof.Machine.execSw rs2 rs1 offset s
  | .addi rd rs1 imm => Sys2Proof.Machine.execAddi rd rs1 imm s
  | .slti rd rs1 imm => Sys2Proof.Machine.execSlti rd rs1 imm s
  | .sltiu rd rs1 imm => Sys2Proof.Machine.execSltiu rd rs1 imm s
  | .xori rd rs1 imm => Sys2Proof.Machine.execXori rd rs1 imm s
  | .ori rd rs1 imm => Sys2Proof.Machine.execOri rd rs1 imm s
  | .andi rd rs1 imm => Sys2Proof.Machine.execAndi rd rs1 imm s
  | .slli rd rs1 shamt funct7 => Sys2Proof.Machine.execSlli rd rs1 shamt funct7 s
  | .srli rd rs1 shamt => Sys2Proof.Machine.execSrli rd rs1 shamt s
  | .srai rd rs1 shamt => Sys2Proof.Machine.execSrai rd rs1 shamt s
  | .add rd rs1 rs2 => Sys2Proof.Machine.execAdd rd rs1 rs2 s
  | .sub rd rs1 rs2 => Sys2Proof.Machine.execSub rd rs1 rs2 s
  | .sll rd rs1 rs2 funct7 => Sys2Proof.Machine.execSll rd rs1 rs2 funct7 s
  | .slt rd rs1 rs2 funct7 => Sys2Proof.Machine.execSlt rd rs1 rs2 funct7 s
  | .sltu rd rs1 rs2 funct7 => Sys2Proof.Machine.execSltu rd rs1 rs2 funct7 s
  | .xor rd rs1 rs2 funct7 => Sys2Proof.Machine.execXor rd rs1 rs2 funct7 s
  | .srl rd rs1 rs2 => Sys2Proof.Machine.execSrl rd rs1 rs2 s
  | .sra rd rs1 rs2 => Sys2Proof.Machine.execSra rd rs1 rs2 s
  | .or rd rs1 rs2 funct7 => Sys2Proof.Machine.execOr rd rs1 rs2 funct7 s
  | .and rd rs1 rs2 funct7 => Sys2Proof.Machine.execAnd rd rs1 rs2 funct7 s
  | .fence rest => Sys2Proof.Machine.execFence rest s
  | .ecall rest => Sys2Proof.Machine.execEcall rest s
  | .ebreak rest => Sys2Proof.Machine.execEbreak rest s

end Sys2Proof.Machine
end

