-- ==== Sys2Proof/Machine/Edge.lean ====
section
/-! DEFINITION. What one rising edge of `clk` does (R21, R159): the body of the step, and the sample that presents one
word to the block. -/

namespace Sys2Proof.Machine

/-- A decode edge: the decoder reads the units on the ports; an instruction of the table runs, a rejection latches its
error result (R39, R140). -/
def decodeAtEdge (p : PortSample) (s : State) : Answer :=
  match decodeUnits p.unit0 p.unit1 with
  | .instr i => exec i s
  | .reject r => .next (s.latchReject r)

/-- One rising edge (R21): `rst` wins over `req`; without either, every field holds its value. -/
def clockEdge (p : PortSample) (s : State) : Answer :=
  if p.rst then .next s.resetRegister
  else if p.req then decodeAtEdge p s
  else .next s

/-- The ports of a decode edge that presents a whole word, unit 0 its low half (R27). -/
def presentWord (w : Word) : PortSample := .decodeEdge (some (lowUnit w)) (some (highUnit w))

end Sys2Proof.Machine
end

