-- ==== Sys2Proof/Machine/Step.lean ====
section
/-! DEFINITION. The step: one rising edge of `clk` with what the host drives at it. -/

namespace Sys2Proof.Machine

/-- One step is one rising edge (R21, R159): the next port sample is taken and used up. It always answers a next state. -/
def step (s : State) : Host.Outcome State Fault Refusal := clockEdge s.ports s.tick

/-- `s` with a decode edge scheduled first, that presents the word whose low `nbits` bits are those of `w`. The very next
step decodes exactly that word; the register and the edges already scheduled are as before (log 9). -/
def State.withFetchWord (s : State) (nbits w : Nat) : State := s.drive (presentWord (tableWord nbits w))

end Sys2Proof.Machine
end

