-- ==== Sys2Proof/Machine/Operands.lean ====
section
/-! DEFINITION. The field extractor with its sign extension (R42 to R51), the operand resolver (R54) and the operand lanes
(R56, R57). All are combinational: they read the result register and store nothing (R24, R158). -/

namespace Sys2Proof.Machine

/-- `FX(w, f)`: the 32-bit pattern of a field, sign-extended where the field is signed (R42). Total over the nine tags. -/
def fieldOf (w : Word) : FieldSpec → Word
  | .rs1 => (rs1Of w).setWidth 32
  | .rs2 => (rs2Of w).setWidth 32
  | .rd => (rdOf w).setWidth 32
  | .shamt => (shamtOf w).setWidth 32
  | .imm12I => (immIOf w).signExtend 32
  | .imm12S => (immSOf w).signExtend 32
  | .imm12B => (immBOf w).signExtend 32
  | .imm20U => immUOf w ++ 0#12
  | .imm20J => (immJOf w).signExtend 32

/-- `Resolve(w, s)` (R54): absent for Nothing, one operand for every other spec. -/
def resolve (w : Word) : OperandSpec → Option Operand
  | .nothing => none
  | .rs1 => some (.reg ((fieldOf w .rs1).setWidth 5))
  | .rs2 => some (.reg ((fieldOf w .rs2).setWidth 5))
  | .rd => some (.reg ((fieldOf w .rd).setWidth 5))
  | .imm12I => some (.imm (fieldOf w .imm12I))
  | .imm12S => some (.imm (fieldOf w .imm12S))
  | .imm12B => some (.jOffset (fieldOf w .imm12B))
  | .imm20J => some (.jOffset (fieldOf w .imm20J))
  | .imm20U => some (.longImm (fieldOf w .imm20U))
  | .shamt => some (.shift ((fieldOf w .shamt).setWidth 8))
  | .baseOffsetRs1I => some (.baseOffset ((fieldOf w .rs1).setWidth 5) ((fieldOf w .imm12I).setWidth 16))
  | .baseOffsetRs1S => some (.baseOffset ((fieldOf w .rs1).setWidth 5) ((fieldOf w .imm12S).setWidth 16))

/-- The operand a spec code resolves to. A code 12 to 15 never stands in the register after an edge; if one did, its lane
would be empty (R57; DEDUCED against item I11, unsafe, log 4). -/
def resolveCode (w : Word) (code : BitVec 4) : Option Operand :=
  match OperandSpec.ofCode code with
  | some spec => resolve w spec
  | none => none

/-! ### The operand lanes (R57) -/

/-- The three ports of one operand lane. -/
structure Lane where
  /-- `opk_kind`. -/
  kind : BitVec 3
  /-- `opk_reg`. -/
  reg  : BitVec 5
  /-- `opk_val`. -/
  val  : BitVec 32
deriving DecidableEq, Repr

/-- An empty lane: kind 0, register 0, value 0. -/
def Lane.empty : Lane := { kind := OperandKind.none.code, reg := 0, val := 0 }

/-- What a lane drives for a resolved operand (R57). -/
def Lane.ofOperand : Operand → Lane
  | .reg i => { kind := OperandKind.reg.code, reg := i, val := i.setWidth 32 }
  | .imm v => { kind := OperandKind.imm.code, reg := 0, val := v }
  | .baseOffset b off => { kind := OperandKind.baseOffset.code, reg := b, val := off.signExtend 32 }
  | .shift n => { kind := OperandKind.shift.code, reg := 0, val := n.setWidth 32 }
  | .longImm v => { kind := OperandKind.longImm.code, reg := 0, val := v }
  | .jOffset v => { kind := OperandKind.jOffset.code, reg := 0, val := v }

/-- The lane of an optional operand. -/
def Lane.ofOption : Option Operand → Lane
  | some o => .ofOperand o
  | none => .empty

/-- `n_ops`: the index of the first Nothing among the three specs, or 3 (R56, R57). -/
def ResultReg.nOps (r : ResultReg) : BitVec 2 :=
  if r.spec0 = 0 then 0 else if r.spec1 = 0 then 1 else if r.spec2 = 0 then 2 else 3

/-- Lane 0: the operand of SPEC0 if `0 < n_ops`, else empty (R57). -/
def ResultReg.lane0 (r : ResultReg) : Lane :=
  if 0 < r.nOps then .ofOption (resolveCode r.word r.spec0) else .empty

/-- Lane 1: the operand of SPEC1 if `1 < n_ops`, else empty (R57). -/
def ResultReg.lane1 (r : ResultReg) : Lane :=
  if 1 < r.nOps then .ofOption (resolveCode r.word r.spec1) else .empty

/-- Lane 2: the operand of SPEC2 if `2 < n_ops`, else empty (R57). -/
def ResultReg.lane2 (r : ResultReg) : Lane :=
  if 2 < r.nOps then .ofOption (resolveCode r.word r.spec2) else .empty

/-- The operand `Resolve(R_INSN.WORD, SPECk)` for each slot, in order (R54). -/
def ResultReg.operands (r : ResultReg) : List (Option Operand) :=
  [resolveCode r.word r.spec0, resolveCode r.word r.spec1, resolveCode r.word r.spec2]

/-- Every output port of the block: the register's own fields (R20) and the lanes (R57). -/
structure Outputs where
  result : ResultReg
  nOps   : BitVec 2
  lane0  : Lane
  lane1  : Lane
  lane2  : Lane
deriving DecidableEq, Repr

/-- What the host reads at any time: a function of the result register alone (R57, R155, R158). -/
def State.outputs (s : State) : Outputs :=
  { result := s.result, nOps := s.result.nOps, lane0 := s.result.lane0, lane1 := s.result.lane1, lane2 := s.result.lane2 }

end Sys2Proof.Machine
end

