-- ==== Sys2Proof/Machine/Reference.lean ====
section
/-! DEFINITION. The block as the spec states it in one piece: `Dispatch` (R58) and `Decode` (R39) over words, with no
`Instr` between, and the clocked register of R21. The machine's step goes another way, through `decodeUnits` and one
meaning per instruction; that the two agree is a statement for the provers, not an assumption. -/

namespace Sys2Proof.Machine

/-- What `Dispatch(w)` returns (R58). -/
inductive Dispatched where
  | ok   (opc : Opcode) (layout : Layout)
  | fail (kind : Status) (reason : UReason)
deriving DecidableEq, Repr

/-- `Fail(InvalidOpcode, 0)`. -/
def Dispatched.invalid : Dispatched := .fail .invalidOpcode .none

/-- One row of the opcode table: a word decodes as the row's instruction iff `w AND mask = pattern`. -/
structure TableRow where
  mask    : Word
  pattern : Word
  result  : Dispatched
deriving DecidableEq, Repr

/-- The rows of files 41 and 42, by their rules' `mask` and `match`. -/
def tableUpperBranches : List TableRow :=
  [⟨0x0000007f#32, 0x00000037#32, .ok .lui ⟨.rd, .imm20U, .nothing⟩⟩,
   ⟨0x0000007f#32, 0x00000017#32, .ok .auipc ⟨.rd, .imm20U, .nothing⟩⟩,
   ⟨0x0000007f#32, 0x0000006f#32, .ok .jal ⟨.rd, .imm20J, .nothing⟩⟩,
   ⟨0x0000007f#32, 0x00000067#32, .ok .jalr ⟨.rd, .rs1, .imm12I⟩⟩,
   ⟨0x0000707f#32, 0x00000063#32, .ok .beq ⟨.rs1, .rs2, .imm12B⟩⟩,
   ⟨0x0000707f#32, 0x00001063#32, .ok .bne ⟨.rs1, .rs2, .imm12B⟩⟩,
   ⟨0x0000707f#32, 0x00004063#32, .ok .blt ⟨.rs1, .rs2, .imm12B⟩⟩,
   ⟨0x0000707f#32, 0x00005063#32, .ok .bge ⟨.rs1, .rs2, .imm12B⟩⟩,
   ⟨0x0000707f#32, 0x00006063#32, .ok .bltu ⟨.rs1, .rs2, .imm12B⟩⟩,
   ⟨0x0000707f#32, 0x00007063#32, .ok .bgeu ⟨.rs1, .rs2, .imm12B⟩⟩]

/-- The rows of file 43. -/
def tableLoadsStores : List TableRow :=
  [⟨0x0000707f#32, 0x00000003#32, .ok .lb ⟨.rd, .baseOffsetRs1I, .nothing⟩⟩,
   ⟨0x0000707f#32, 0x00001003#32, .ok .lh ⟨.rd, .baseOffsetRs1I, .nothing⟩⟩,
   ⟨0x0000707f#32, 0x00002003#32, .ok .lw ⟨.rd, .baseOffsetRs1I, .nothing⟩⟩,
   ⟨0x0000707f#32, 0x00004003#32, .ok .lbu ⟨.rd, .baseOffsetRs1I, .nothing⟩⟩,
   ⟨0x0000707f#32, 0x00005003#32, .ok .lhu ⟨.rd, .baseOffsetRs1I, .nothing⟩⟩,
   ⟨0x0000707f#32, 0x00000023#32, .ok .sb ⟨.rs2, .baseOffsetRs1S, .nothing⟩⟩,
   ⟨0x0000707f#32, 0x00001023#32, .ok .sh ⟨.rs2, .baseOffsetRs1S, .nothing⟩⟩,
   ⟨0x0000707f#32, 0x00002023#32, .ok .sw ⟨.rs2, .baseOffsetRs1S, .nothing⟩⟩]

/-- The rows of file 44. -/
def tableAluImm : List TableRow :=
  [⟨0x0000707f#32, 0x00000013#32, .ok .addi ⟨.rd, .rs1, .imm12I⟩⟩,
   ⟨0x0000707f#32, 0x00002013#32, .ok .slti ⟨.rd, .rs1, .imm12I⟩⟩,
   ⟨0x0000707f#32, 0x00003013#32, .ok .sltiu ⟨.rd, .rs1, .imm12I⟩⟩,
   ⟨0x0000707f#32, 0x00004013#32, .ok .xori ⟨.rd, .rs1, .imm12I⟩⟩,
   ⟨0x0000707f#32, 0x00006013#32, .ok .ori ⟨.rd, .rs1, .imm12I⟩⟩,
   ⟨0x0000707f#32, 0x00007013#32, .ok .andi ⟨.rd, .rs1, .imm12I⟩⟩,
   ⟨0x0000707f#32, 0x00001013#32, .ok .slli ⟨.rd, .rs1, .shamt⟩⟩,
   ⟨0xfe00707f#32, 0x00005013#32, .ok .srli ⟨.rd, .rs1, .shamt⟩⟩,
   ⟨0xfe00707f#32, 0x40005013#32, .ok .srai ⟨.rd, .rs1, .shamt⟩⟩]

/-- The rows of file 45. -/
def tableAluReg : List TableRow :=
  [⟨0xfe00707f#32, 0x00000033#32, .ok .add ⟨.rd, .rs1, .rs2⟩⟩,
   ⟨0xfe00707f#32, 0x40000033#32, .ok .sub ⟨.rd, .rs1, .rs2⟩⟩,
   ⟨0x0000707f#32, 0x00001033#32, .ok .sll ⟨.rd, .rs1, .rs2⟩⟩,
   ⟨0x0000707f#32, 0x00002033#32, .ok .slt ⟨.rd, .rs1, .rs2⟩⟩,
   ⟨0x0000707f#32, 0x00003033#32, .ok .sltu ⟨.rd, .rs1, .rs2⟩⟩,
   ⟨0x0000707f#32, 0x00004033#32, .ok .xor ⟨.rd, .rs1, .rs2⟩⟩,
   ⟨0xfe00707f#32, 0x00005033#32, .ok .srl ⟨.rd, .rs1, .rs2⟩⟩,
   ⟨0xfe00707f#32, 0x40005033#32, .ok .sra ⟨.rd, .rs1, .rs2⟩⟩,
   ⟨0x0000707f#32, 0x00006033#32, .ok .or ⟨.rd, .rs1, .rs2⟩⟩,
   ⟨0x0000707f#32, 0x00007033#32, .ok .and ⟨.rd, .rs1, .rs2⟩⟩]

/-- The rows of file 46. FENCE is a row that fails as unsupported (R114). -/
def tableFenceSystem : List TableRow :=
  [⟨0x0000007f#32, 0x0000000f#32, .fail .unsupportedEncoding .fenceGroup⟩,
   ⟨0xfff0007f#32, 0x00000073#32, .ok .ecall ⟨.nothing, .nothing, .nothing⟩⟩,
   ⟨0xfff0007f#32, 0x00100073#32, .ok .ebreak ⟨.nothing, .nothing, .nothing⟩⟩]

/-- The opcode table: 40 rows, each by the `mask` and `match` of its own rule (R67 to R117). -/
def opcodeTable : List TableRow :=
  tableUpperBranches ++ tableLoadsStores ++ tableAluImm ++ tableAluReg ++ tableFenceSystem

/-- `w` is a word of the row. -/
def TableRow.covers (row : TableRow) (w : Word) : Bool := w &&& row.mask == row.pattern

/-- `Dispatch(w)` (R58): the row that covers the word; a word no row covers is InvalidOpcode (R59). -/
def dispatchWord (w : Word) : Dispatched :=
  match opcodeTable.find? (·.covers w) with
  | some row => row.result
  | none => .invalid

/-- The part of `Decode` after both units are read (R39). -/
def decodeWordResult (w : Word) : ResultReg :=
  match dispatchWord w with
  | .ok opc layout => okResult w opc layout (wellDefined w opc)
  | .fail kind reason => errorResult kind reason 2#2 w

/-- `Decode(cu0, cu0_avail, cu1, cu1_avail)` (R39), test by test in the order of the rule. -/
def decodeRegister (cu0 : CodeUnit) (cu0Avail : Bool) (cu1 : CodeUnit) (cu1Avail : Bool) : ResultReg :=
  if !cu0Avail then errorResult .streamExhausted .none 0#2 0#32
  else match lenClass cu0 with
    | .compressed16 => errorResult .unsupportedEncoding .compressed16 1#2 (cu0.setWidth 32)
    | .wide48Plus => errorResult .unsupportedEncoding .wide48Plus 1#2 (cu0.setWidth 32)
    | .len32 =>
      if !cu1Avail then errorResult .streamExhausted .none 1#2 (cu0.setWidth 32)
      else decodeWordResult (wordOfUnits cu0 cu1)

/-- The register after a rising edge with the given ports, from the register before it (R21). -/
def registerAfterEdge (p : PortSample) (r : ResultReg) : ResultReg :=
  if p.rst then .reset
  else if p.req then decodeRegister p.cu0 p.cu0Avail p.cu1 p.cu1Avail
  else r

end Sys2Proof.Machine
end

