-- ==== Sys2Proof/Machine/Render.lean ====
section
/-! DEFINITION. The reference formatter `Render` (R121 to R138): software, a pure function over the result register, no
part of the step. -/

namespace Sys2Proof.Machine

/-! ### Operand text -/

/-- The ABI name of a register index, the 32-entry table of R130. -/
def regName (i : RegIndex) : String :=
  ["zero", "ra", "sp", "gp", "tp", "t0", "t1", "t2", "s0", "s1", "a0", "a1", "a2", "a3", "a4", "a5",
   "a6", "a7", "s2", "s3", "s4", "s5", "s6", "s7", "s8", "s9", "s10", "s11", "t3", "t4", "t5", "t6"].getD i.toNat ""

/-- One hexadecimal digit, lower case (R131). -/
def hexDigit (n : Nat) : Char := if n < 10 then Char.ofNat (48 + n) else Char.ofNat (87 + n)

/-- The digits of `n` before the digits already written, most significant first, no leading zeros: at most `fuel` of
them. Eight cover every 32-bit value. -/
def hexDigits : Nat → Nat → List Char → List Char
  | 0, _, acc => acc
  | fuel + 1, n, acc =>
    if n < 16 then hexDigit n :: acc else hexDigits fuel (n / 16) (hexDigit (n % 16) :: acc)

/-- `0x` and the value's digits; 0 prints as `0x0` (R131). -/
def hexText (n : Nat) : String := "0x" ++ String.ofList (hexDigits 8 n [])

/-- Signed hexadecimal: `-0x` and the digits of the magnitude where negative (R132). -/
def signedHexText (v : Int) : String := if v < 0 then "-" ++ hexText v.natAbs else hexText v.natAbs

/-- A displacement: `$+0x` or `$-0x` and the digits of its magnitude (R136). -/
def displacementText (v : Int) : String := (if v < 0 then "$-" else "$+") ++ hexText v.natAbs

/-- The text of one operand (R132 to R137). -/
def operandText : Operand → String
  | .reg i => regName i
  | .imm v => signedHexText v.toInt
  | .baseOffset b off => (if off.toInt = 0 then "" else signedHexText off.toInt) ++ "(" ++ regName b ++ ")"
  | .shift n => hexText n.toNat
  | .longImm v => hexText (v.toNat / 2 ^ 12)
  | .jOffset v => displacementText v.toInt

/-! ### Instruction text -/

/-- The mnemonic: the name in lower case of a tag that decodes (R129); a tag no decode produces has none (R122). -/
def mnemonic : Opcode → Option String
  | .lui => some "lui"
  | .auipc => some "auipc"
  | .jal => some "jal"
  | .jalr => some "jalr"
  | .beq => some "beq"
  | .bne => some "bne"
  | .blt => some "blt"
  | .bge => some "bge"
  | .bltu => some "bltu"
  | .bgeu => some "bgeu"
  | .lb => some "lb"
  | .lh => some "lh"
  | .lw => some "lw"
  | .lbu => some "lbu"
  | .lhu => some "lhu"
  | .sb => some "sb"
  | .sh => some "sh"
  | .sw => some "sw"
  | .addi => some "addi"
  | .slti => some "slti"
  | .sltiu => some "sltiu"
  | .xori => some "xori"
  | .ori => some "ori"
  | .andi => some "andi"
  | .slli => some "slli"
  | .srli => some "srli"
  | .srai => some "srai"
  | .add => some "add"
  | .sub => some "sub"
  | .sll => some "sll"
  | .slt => some "slt"
  | .sltu => some "sltu"
  | .xor => some "xor"
  | .srl => some "srl"
  | .sra => some "sra"
  | .or => some "or"
  | .and => some "and"
  | .ecall => some "ecall"
  | .ebreak => some "ebreak"
  | .invalid | .fence => none
  | .lwu | .ld | .sd | .addiw | .slliw | .srliw | .sraiw | .addw | .subw | .sllw | .srlw | .sraw => none

/-- The visible operands: those before the first Nothing (R56). Over a register no decode leaves, the list would also end
at a spec code 12 to 15, which resolves to no operand, where `nOps` counts past it; `render` gives no text there
(DESIGN CHOICE, safe, log 14). -/
def visibleOperands (ops : List (Option Operand)) : List Operand :=
  (ops.takeWhile (·.isSome)).filterMap id

/-- The pseudo-instruction rules, in priority order (R123 to R127); no other alias exists (R128). -/
def pseudoText (opc : Opcode) (ops : List (Option Operand)) : Option String :=
  match opc, ops with
  | .addi, [some (.reg d), some (.reg s), some (.imm v)] =>
    if v.toInt = 0 then (if d = s then some "nop" else some ("mv " ++ regName d ++ ", " ++ regName s)) else none
  | .beq, [some (.reg a), some (.reg b), some (.jOffset v)] =>
    if a = b then some ("beq " ++ displacementText v.toInt) else none
  | .sll, [some (.reg d), some (.reg s), some (.reg t)] => if d = s ∧ t = 0#5 then some "nop" else none
  | _, _ => none

/-- Generic rendering (R129): the mnemonic, a space, the visible operands separated by comma and space; the mnemonic
alone where there is no visible operand. -/
def genericText (name : String) (ops : List Operand) : String :=
  match ops with
  | [] => name
  | _ :: _ => name ++ " " ++ String.intercalate ", " (ops.map operandText)

/-- The text of an opcode tag with its resolved operands (R123). -/
def renderOps (opc : Opcode) (ops : List (Option Operand)) : Option String :=
  match pseudoText opc ops with
  | some text => some text
  | none => (mnemonic opc).map (genericText · (visibleOperands ops))

/-- The tags of R15 that decode, in code order. -/
def decodedOpcodes : List Opcode :=
  [.lui, .auipc, .jal, .jalr, .beq, .bne, .blt, .bge, .bltu, .bgeu, .lb, .lh, .lw, .lbu, .lhu, .sb, .sh, .sw] ++
  [.addi, .slti, .sltiu, .xori, .ori, .andi, .slli, .srli, .srai] ++
  [.add, .sub, .sll, .slt, .sltu, .xor, .srl, .sra, .or, .and, .ecall, .ebreak]

/-- The tag a code of R15 stands for, where a decode can produce it. -/
def decodedOpcodeOf (code : BitVec 6) : Option Opcode := decodedOpcodes.find? (·.code == code)

/-- The three spec codes of the register are assigned ones, 0 to 11 (R16). -/
def ResultReg.specsAssigned (r : ResultReg) : Bool :=
  (OperandSpec.ofCode r.spec0).isSome && (OperandSpec.ofCode r.spec1).isSome && (OperandSpec.ofCode r.spec2).isSome

/-- `Render` over the result register (R121). It has no value when `R_STATUS` is not OK (R122; an optional result, log 7).
R121 speaks of a register after a decode; over one that only a power-up draw can hold, the model gives no text for a tag
no decode produces or a spec code 12 to 15 (item I11: refuse), and the text of the tag and operands otherwise (DESIGN
CHOICE, safe, log 14). -/
def render (r : ResultReg) : Option String :=
  if r.status = Status.ok.code then
    match decodedOpcodeOf r.opc with
    | some opc => if r.specsAssigned then renderOps opc r.operands else none
    | none => none
  else none

end Sys2Proof.Machine
end

