-- ==== Sys2Proof/Machine/Walk.lean ====
section
/-! DEFINITION. `Walk` (R156): the spec's own host procedure over the machine's step. It is a harness, no part of the
block. -/

namespace Sys2Proof.Machine

/-- One entry of the trace: the cursor, counted in 16-bit units, and the register after the decode. -/
structure WalkEntry where
  cur    : Nat
  result : ResultReg
deriving DecidableEq, Repr

/-- The ports of a decode at a cursor (R156). -/
def walkPorts (bytes : List Byte) (cur : Nat) : PortSample := .decodeEdge (unitAt bytes cur) (unitAt bytes (cur + 1))

/-- How far the cursor moves after a decode: `max(R_UNITS, 1)` units (R156). -/
def walkAdvance (r : ResultReg) : Nat := max r.units.toNat 1

/-- The loop of `Walk`, at most `fuel` decodes, each one step of the machine. It answers the trace and the last state. -/
def walkLoop (bytes : List Byte) : Nat → Nat → State → List WalkEntry × State
  | 0, _, s => ([], s)
  | fuel + 1, cur, s =>
    match step (s.drive (walkPorts bytes cur)) with
    | .next t =>
      if t.result.status = Status.streamExhausted.code then ([⟨cur, t.result⟩], t)
      else
        let (rest, u) := walkLoop bytes fuel (cur + walkAdvance t.result) t
        (⟨cur, t.result⟩ :: rest, u)
    | .fault _ | .refused _ => ([], s)

/-- `Walk(b)` (R156) from any state: one reset edge, then the loop. `floor(L/2) + 1` decodes are enough for it to stop. -/
def walk (bytes : List Byte) (s : State) : List WalkEntry × State :=
  match step (s.drive .resetEdge) with
  | .next t => walkLoop bytes (bytes.length / 2 + 1) 0 t
  | .fault _ | .refused _ => ([], s)

end Sys2Proof.Machine
end

