-- ==== Sys2Proof/Safety.lean ====
section
/-! DEFINITION. What counts as a good register, a good state and a safe run, in the terms the statements use. -/

namespace Sys2Proof.Machine

/-- The three specs are in prefix form: nothing follows a Nothing (R22, item 4). -/
def ResultReg.PrefixForm (r : ResultReg) : Prop :=
  (r.spec0 = 0#4 → r.spec1 = 0#4) ∧ (r.spec1 = 0#4 → r.spec2 = 0#4)

/-- What R22 and R19 say of the register after every edge. The invariant that R22 itself offers; its third clause is the
one place where a statement reads `R_INSN` after an error (log 6). -/
def ResultReg.Legal (r : ResultReg) : Prop :=
  r.status ≤ 4#3 ∧
  (r.ureason ≠ 0#2 ↔ r.status = 3#3) ∧
  r.units ≤ 2#2 ∧
  (r.status = 1#3 → Opcode.produced r.opc = true ∧ r.units = 2#2) ∧
  (r.status ≠ 1#3 → r.opc = 0#6 ∧ r.spec0 = 0#4 ∧ r.spec1 = 0#4 ∧ r.spec2 = 0#4 ∧ r.wd = false) ∧
  r.PrefixForm

/-- The register agrees with its own word: after an OK the tag, the layout and the flag are those the opcode table gives
the word it holds, a word of the 32-bit class (R22, items 1 and 2; R62). -/
def ResultReg.SelfConsistent (r : ResultReg) : Prop :=
  r.status = 1#3 → lenClass (lowUnit r.word) = .len32 ∧ r = decodeWordResult r.word

/-- The invariant of the block's state: its register is legal and agrees with its word. -/
def State.Inv (s : State) : Prop := s.result.Legal ∧ s.result.SelfConsistent

/-- The step answers a next state. -/
def State.Completes (s : State) : Prop := ∃ t, step s = .next t

/-- A run of `k` edges ends in a state: nothing stopped on the way (R142). -/
def SafeRun (k : Nat) (s : State) : Prop := ∃ t, Host.Core.run Sys2Proof.core k s = .next t

/-- The next edge is a decode edge: `req = 1` and `rst = 0` (R25). -/
def State.AtDecode (s : State) : Prop := s.ports.req = true ∧ s.ports.rst = false

/-- The next edge is a decode edge that presents the whole word `w` (R27). -/
def State.Presents (s : State) (w : Word) : Prop :=
  s.AtDecode ∧ s.ports.cu0Avail = true ∧ s.ports.cu1Avail = true ∧ wordOfUnits s.ports.cu0 s.ports.cu1 = w

/-! ### The terms of the statements -/

/-- The register after an OK decode, its codes as the tables of R15, R16 and R19 number them: status 1, sub-reason 0,
two units. -/
def okRegister (w : Word) (opc : BitVec 6) (spec0 spec1 spec2 : BitVec 4) (wd : Bool) : ResultReg :=
  ⟨1#3, 0#2, 2#2, w, opc, spec0, spec1, spec2, wd⟩

/-- What a consumer may read after any decode, an error included: status, sub-reason and units (R23). -/
def State.Reports (s : State) (status : BitVec 3) (ureason units : BitVec 2) : Prop :=
  s.result.status = status ∧ s.result.ureason = ureason ∧ s.result.units = units

/-- A meaning that shows `n` operands on the lanes: it answers a next state whose lane outputs are these (R57). -/
def ExecShows (i : Instr) (s : State) (n : BitVec 2) (l0 l1 l2 : Lane) : Prop :=
  ∃ t, exec i s = .next t ∧ t.outputs.nOps = n ∧ t.outputs.lane0 = l0 ∧ t.outputs.lane1 = l1 ∧ t.outputs.lane2 = l2

/-- The lane of a register operand, by the kind codes of R18 and the values of R57. -/
def Lane.regOf (i : RegIndex) : Lane := ⟨1#3, i, i.setWidth 32⟩
/-- The lane of a signed immediate. -/
def Lane.immOf (v : Word) : Lane := ⟨2#3, 0#5, v⟩
/-- The lane of a base register with a signed 12-bit offset. -/
def Lane.baseOf (b : RegIndex) (offset : BitVec 12) : Lane := ⟨3#3, b, offset.signExtend 32⟩
/-- The lane of a shift amount. -/
def Lane.shiftOf (n : BitVec 5) : Lane := ⟨4#3, 0#5, n.setWidth 32⟩
/-- The lane of an upper immediate. -/
def Lane.longOf (v : Word) : Lane := ⟨5#3, 0#5, v⟩
/-- The lane of a displacement. -/
def Lane.jumpOf (v : Word) : Lane := ⟨6#3, 0#5, v⟩
/-- An empty lane. -/
def Lane.none : Lane := ⟨0#3, 0#5, 0#32⟩

/-- A meaning whose result renders as `text` (R121). -/
def ExecRenders (i : Instr) (s : State) (text : String) : Prop :=
  ∃ t, exec i s = .next t ∧ render t.result = some text

/-- A step that presents `w` and answers a next state which reports these three values. -/
def StepReports (s : State) (status : BitVec 3) (ureason units : BitVec 2) : Prop :=
  ∃ t, step s = .next t ∧ t.Reports status ureason units

/-- The value of a row of hexadecimal digits, most significant first. -/
def hexValue (digits : List Char) : Nat :=
  digits.foldl (fun acc c => 16 * acc + (if c.toNat < 58 then c.toNat - 48 else c.toNat - 87)) 0

/-- A digit 0 to 9 or a lower-case a to f. -/
def IsLowerHex (c : Char) : Prop := (48 ≤ c.toNat ∧ c.toNat ≤ 57) ∨ (97 ≤ c.toNat ∧ c.toNat ≤ 102)

end Sys2Proof.Machine
end

