-- ==== Sys2Proof/Certificates/Slice0/Obligations.lean ====
section
/-! DEFINITION. The statements for the provers. Each docstring names the rules of spec/ it formalises. A statement about a
decode error reads the status, the sub-reason and the units only, as R23 asks. Two kinds are exceptions (log 6): the
invariant that R22 itself offers, and statements that compare whole registers bit for bit, as the conventions of
`95_test_vectors.md` allow. -/

open Sys2Proof Sys2Proof.Machine

/-! ### What each instruction's meaning writes -/

/-- R67 to R70: LUI, AUIPC, JAL and JALR complete and latch their own word, tag, layout and flag. The word is laid out as
R41's U, J and I rows say. -/
def Obligations.UpperAndJumpsLatch : Prop :=
  ∀ (s : State) (rd rs1 : RegIndex) (u : BitVec 20) (j : BitVec 21) (imm : BitVec 12) (f3 : BitVec 3),
    exec (.lui rd u) s = .next (s.latch (okRegister (u ++ rd ++ 0b0110111#7) 1 3 7 0 true)) ∧
    exec (.auipc rd u) s = .next (s.latch (okRegister (u ++ rd ++ 0b0010111#7) 2 3 7 0 true)) ∧
    exec (.jal rd j) s = .next (s.latch (okRegister
      (j.extractLsb' 20 1 ++ j.extractLsb' 1 10 ++ j.extractLsb' 11 1 ++ j.extractLsb' 12 8 ++ rd ++ 0b1101111#7)
      3 3 8 0 true)) ∧
    exec (.jalr rd rs1 imm f3) s = .next (s.latch (okRegister (imm ++ rs1 ++ f3 ++ rd ++ 0b1100111#7) 4 3 1 4
      (decide (f3 = 0b000#3))))

/-- R72 to R77: the six branches complete and latch their own word, tag, layout and flag. -/
def Obligations.BranchesLatch : Prop :=
  ∀ (s : State) (rs1 rs2 : RegIndex) (b : BitVec 13),
    let word (f3 : BitVec 3) : Word := b.extractLsb' 12 1 ++ b.extractLsb' 5 6 ++ rs2 ++ rs1 ++ f3 ++
      b.extractLsb' 1 4 ++ b.extractLsb' 11 1 ++ 0b1100011#7
    exec (.beq rs1 rs2 b) s = .next (s.latch (okRegister (word 0b000#3) 5 1 2 6 true)) ∧
    exec (.bne rs1 rs2 b) s = .next (s.latch (okRegister (word 0b001#3) 6 1 2 6 true)) ∧
    exec (.blt rs1 rs2 b) s = .next (s.latch (okRegister (word 0b100#3) 7 1 2 6 true)) ∧
    exec (.bge rs1 rs2 b) s = .next (s.latch (okRegister (word 0b101#3) 8 1 2 6 true)) ∧
    exec (.bltu rs1 rs2 b) s = .next (s.latch (okRegister (word 0b110#3) 9 1 2 6 true)) ∧
    exec (.bgeu rs1 rs2 b) s = .next (s.latch (okRegister (word 0b111#3) 10 1 2 6 true))

/-- R80 to R84 and R87 to R89: the loads and stores complete and latch their own word, tag, layout and flag. -/
def Obligations.LoadsStoresLatch : Prop :=
  ∀ (s : State) (rd rs1 rs2 : RegIndex) (o : BitVec 12),
    let load (f3 : BitVec 3) : Word := o ++ rs1 ++ f3 ++ rd ++ 0b0000011#7
    let store (f3 : BitVec 3) : Word := o.extractLsb' 5 7 ++ rs2 ++ rs1 ++ f3 ++ o.extractLsb' 0 5 ++ 0b0100011#7
    exec (.lb rd rs1 o) s = .next (s.latch (okRegister (load 0b000#3) 11 3 9 0 true)) ∧
    exec (.lh rd rs1 o) s = .next (s.latch (okRegister (load 0b001#3) 12 3 9 0 true)) ∧
    exec (.lw rd rs1 o) s = .next (s.latch (okRegister (load 0b010#3) 13 3 9 0 true)) ∧
    exec (.lbu rd rs1 o) s = .next (s.latch (okRegister (load 0b100#3) 14 3 9 0 true)) ∧
    exec (.lhu rd rs1 o) s = .next (s.latch (okRegister (load 0b101#3) 15 3 9 0 true)) ∧
    exec (.sb rs2 rs1 o) s = .next (s.latch (okRegister (store 0b000#3) 16 2 10 0 true)) ∧
    exec (.sh rs2 rs1 o) s = .next (s.latch (okRegister (store 0b001#3) 17 2 10 0 true)) ∧
    exec (.sw rs2 rs1 o) s = .next (s.latch (okRegister (store 0b010#3) 18 2 10 0 true))

/-- R92 to R100: the ALU-imm instructions complete and latch their own word, tag, layout and flag. -/
def Obligations.AluImmLatch : Prop :=
  ∀ (s : State) (rd rs1 : RegIndex) (imm : BitVec 12) (sh : BitVec 5) (f7 : BitVec 7),
    let word (f3 : BitVec 3) : Word := imm ++ rs1 ++ f3 ++ rd ++ 0b0010011#7
    let shift (f7 : BitVec 7) (f3 : BitVec 3) : Word := f7 ++ sh ++ rs1 ++ f3 ++ rd ++ 0b0010011#7
    exec (.addi rd rs1 imm) s = .next (s.latch (okRegister (word 0b000#3) 19 3 1 4 true)) ∧
    exec (.slti rd rs1 imm) s = .next (s.latch (okRegister (word 0b010#3) 20 3 1 4 true)) ∧
    exec (.sltiu rd rs1 imm) s = .next (s.latch (okRegister (word 0b011#3) 21 3 1 4 true)) ∧
    exec (.xori rd rs1 imm) s = .next (s.latch (okRegister (word 0b100#3) 22 3 1 4 true)) ∧
    exec (.ori rd rs1 imm) s = .next (s.latch (okRegister (word 0b110#3) 23 3 1 4 true)) ∧
    exec (.andi rd rs1 imm) s = .next (s.latch (okRegister (word 0b111#3) 24 3 1 4 true)) ∧
    exec (.slli rd rs1 sh f7) s = .next (s.latch (okRegister (shift f7 0b001#3) 25 3 1 11
      (decide (f7 = 0b0000000#7)))) ∧
    exec (.srli rd rs1 sh) s = .next (s.latch (okRegister (shift 0b0000000#7 0b101#3) 26 3 1 11 true)) ∧
    exec (.srai rd rs1 sh) s = .next (s.latch (okRegister (shift 0b0100000#7 0b101#3) 27 3 1 11 true))

/-- R103 to R112: the ALU-reg instructions complete and latch their own word, tag, layout and flag. -/
def Obligations.AluRegLatch : Prop :=
  ∀ (s : State) (rd rs1 rs2 : RegIndex) (f7 : BitVec 7),
    let word (f7 : BitVec 7) (f3 : BitVec 3) : Word := f7 ++ rs2 ++ rs1 ++ f3 ++ rd ++ 0b0110011#7
    let wd : Bool := decide (f7 = 0b0000000#7)
    exec (.add rd rs1 rs2) s = .next (s.latch (okRegister (word 0b0000000#7 0b000#3) 28 3 1 2 true)) ∧
    exec (.sub rd rs1 rs2) s = .next (s.latch (okRegister (word 0b0100000#7 0b000#3) 29 3 1 2 true)) ∧
    exec (.sll rd rs1 rs2 f7) s = .next (s.latch (okRegister (word f7 0b001#3) 30 3 1 2 wd)) ∧
    exec (.slt rd rs1 rs2 f7) s = .next (s.latch (okRegister (word f7 0b010#3) 31 3 1 2 wd)) ∧
    exec (.sltu rd rs1 rs2 f7) s = .next (s.latch (okRegister (word f7 0b011#3) 32 3 1 2 wd)) ∧
    exec (.xor rd rs1 rs2 f7) s = .next (s.latch (okRegister (word f7 0b100#3) 33 3 1 2 wd)) ∧
    exec (.srl rd rs1 rs2) s = .next (s.latch (okRegister (word 0b0000000#7 0b101#3) 34 3 1 2 true)) ∧
    exec (.sra rd rs1 rs2) s = .next (s.latch (okRegister (word 0b0100000#7 0b101#3) 35 3 1 2 true)) ∧
    exec (.or rd rs1 rs2 f7) s = .next (s.latch (okRegister (word f7 0b110#3) 36 3 1 2 wd)) ∧
    exec (.and rd rs1 rs2 f7) s = .next (s.latch (okRegister (word f7 0b111#3) 37 3 1 2 wd))

/-- R116, R117: ECALL and EBREAK complete: they are decoded and not taken (R144). -/
def Obligations.EcallEbreakLatch : Prop :=
  ∀ (s : State) (rest : BitVec 13),
    exec (.ecall rest) s =
      .next (s.latch (okRegister (0x000#12 ++ rest ++ 0b1110011#7) 39 0 0 0 (decide (rest = 0#13)))) ∧
    exec (.ebreak rest) s =
      .next (s.latch (okRegister (0x001#12 ++ rest ++ 0b1110011#7) 40 0 0 0 (decide (rest = 0#13))))

/-- R114: FENCE completes. Its effect is the result "unsupported": status 3, sub-reason 3, two units. Nothing but the
register changes. What `R_INSN` then holds is not claimed (R23). -/
def Obligations.FenceReportsUnsupported : Prop :=
  ∀ (s : State) (rest : BitVec 25),
    ∃ t, exec (.fence rest) s = .next t ∧ t.Reports 3#3 3#2 2#2 ∧ t.inputs = s.inputs

/-- R12, R24, R144: the frame of every instruction. A meaning writes the result register and nothing else, and what it
writes is fixed by the instruction alone: no meaning reads the state. -/
def Obligations.MeaningsWriteOnlyTheRegister : Prop :=
  ∀ i : Instr, ∃ r : ResultReg, ∀ s : State, exec i s = .next { result := r, inputs := s.inputs }

/-! ### The operand lanes -/

/-- R57, R67 to R70: the lanes of the upper immediates and jumps show the instruction's own operands, sign-extended where
signed. A JAL displacement is even, as every word's is (R51). -/
def Obligations.UpperAndJumpLanes : Prop :=
  ∀ (s : State) (rd rs1 : RegIndex) (u : BitVec 20) (j : BitVec 21) (imm : BitVec 12) (f3 : BitVec 3),
    j.getLsbD 0 = false →
    ExecShows (.lui rd u) s 2 (.regOf rd) (.longOf (u ++ 0#12)) .none ∧
    ExecShows (.auipc rd u) s 2 (.regOf rd) (.longOf (u ++ 0#12)) .none ∧
    ExecShows (.jal rd j) s 2 (.regOf rd) (.jumpOf (j.signExtend 32)) .none ∧
    ExecShows (.jalr rd rs1 imm f3) s 3 (.regOf rd) (.regOf rs1) (.immOf (imm.signExtend 32))

/-- R57, R71: the lanes of every branch show `rs1`, `rs2` and the sign-extended displacement. -/
def Obligations.BranchLanes : Prop :=
  ∀ (s : State) (rs1 rs2 : RegIndex) (b : BitVec 13), b.getLsbD 0 = false →
    ∀ i ∈ [Instr.beq rs1 rs2 b, .bne rs1 rs2 b, .blt rs1 rs2 b, .bge rs1 rs2 b, .bltu rs1 rs2 b, .bgeu rs1 rs2 b],
      ExecShows i s 3 (.regOf rs1) (.regOf rs2) (.jumpOf (b.signExtend 32))

/-- R57, R79, R86: a load's lanes show `rd` and the base with its offset, a store's show `rs2` first. -/
def Obligations.LoadStoreLanes : Prop :=
  ∀ (s : State) (rd rs1 rs2 : RegIndex) (o : BitVec 12),
    (∀ i ∈ [Instr.lb rd rs1 o, .lh rd rs1 o, .lw rd rs1 o, .lbu rd rs1 o, .lhu rd rs1 o],
      ExecShows i s 2 (.regOf rd) (.baseOf rs1 o) .none) ∧
    (∀ i ∈ [Instr.sb rs2 rs1 o, .sh rs2 rs1 o, .sw rs2 rs1 o],
      ExecShows i s 2 (.regOf rs2) (.baseOf rs1 o) .none)

/-- R57, R91: the lanes of the ALU-imm instructions: `rd`, `rs1` and the sign-extended immediate, SLTIU's too; or, for the
three shifts, the 5-bit amount with no bit of funct7. -/
def Obligations.AluImmLanes : Prop :=
  ∀ (s : State) (rd rs1 : RegIndex) (imm : BitVec 12) (sh : BitVec 5) (f7 : BitVec 7),
    (∀ i ∈ [Instr.addi rd rs1 imm, .slti rd rs1 imm, .sltiu rd rs1 imm, .xori rd rs1 imm, .ori rd rs1 imm,
        .andi rd rs1 imm],
      ExecShows i s 3 (.regOf rd) (.regOf rs1) (.immOf (imm.signExtend 32))) ∧
    (∀ i ∈ [Instr.slli rd rs1 sh f7, .srli rd rs1 sh, .srai rd rs1 sh],
      ExecShows i s 3 (.regOf rd) (.regOf rs1) (.shiftOf sh))

/-- R57, R102: the lanes of the ALU-reg instructions show `rd`, `rs1`, `rs2` in that order. -/
def Obligations.AluRegLanes : Prop :=
  ∀ (s : State) (rd rs1 rs2 : RegIndex) (f7 : BitVec 7),
    ∀ i ∈ [Instr.add rd rs1 rs2, .sub rd rs1 rs2, .sll rd rs1 rs2 f7, .slt rd rs1 rs2 f7, .sltu rd rs1 rs2 f7,
        .xor rd rs1 rs2 f7, .srl rd rs1 rs2, .sra rd rs1 rs2, .or rd rs1 rs2 f7, .and rd rs1 rs2 f7],
      ExecShows i s 3 (.regOf rd) (.regOf rs1) (.regOf rs2)

/-- R57, R115: ECALL and EBREAK show no operand. -/
def Obligations.SystemLanes : Prop :=
  ∀ (s : State) (rest : BitVec 13), ∀ i ∈ [Instr.ecall rest, .ebreak rest], ExecShows i s 0 .none .none .none

/-! ### Encoding -/

/-- R41, R58: words written out from the encodings decode to the instructions they stand for, one per group. -/
def Obligations.WrittenWordsDecode : Prop :=
  decodeWord 0x12345537#32 = some (.lui 10 0x12345) ∧
  decodeWord 0xffdff06f#32 = some (.jal 0 0x1ffffc) ∧
  decodeWord 0xfe0796e3#32 = some (.bne 15 0 0x1fec) ∧
  decodeWord 0x80011283#32 = some (.lh 5 2 0x800) ∧
  decodeWord 0x18a12023#32 = some (.sw 10 2 0x180) ∧
  decodeWord 0x41f5d513#32 = some (.srai 10 11 31) ∧
  decodeWord 0x02c59533#32 = some (.sll 10 11 12 1) ∧
  decodeWord 0x00108073#32 = some (.ebreak 0x100)

/-- R28, R41, R58: decode and encode agree. The bytes of any well-formed instruction, every operand at every value, decode
to that instruction. -/
def Obligations.DecodeOfEncode : Prop :=
  ∀ i : Instr, i.WellFormed = true → decodeBytes (bytesOfWord (encode i)) = .instr i

/-- R27, R61: no bit of a word is dropped. An instruction the decoder reads from two units encodes to exactly those units,
don't-care bits included, and is well formed. -/
def Obligations.EncodeOfDecode : Prop :=
  ∀ (cu0 cu1 : CodeUnit) (i : Instr), decodeUnits (some cu0) (some cu1) = .instr i →
    encode i = wordOfUnits cu0 cu1 ∧ i.WellFormed = true

/-- R58, R59: the rows of the opcode table do not overlap: no word is covered by two of them. -/
def Obligations.TableRowsDisjoint : Prop :=
  opcodeTable.Pairwise (fun a b => ∀ w : Word, ¬ (a.covers w = true ∧ b.covers w = true))

/-- The template of files 41 to 46: a word decodes as the instruction of an OK row iff `w AND mask = match`. When a decode
edge presents `w`, the step reports OK with the row's tag exactly when the row covers `w`, and then it latches the word,
the row's layout and the flag. -/
def Obligations.MaskMatchDecidesDecode : Prop :=
  ∀ (row : TableRow) (opc : Opcode) (layout : Layout), row ∈ opcodeTable → row.result = .ok opc layout →
    ∀ (s : State) (w : Word), s.Presents w →
      ∃ t, step s = .next t ∧
        ((t.result.status = 1#3 ∧ t.result.opc = opc.code) ↔ row.covers w = true) ∧
        (row.covers w = true → t.result = okRegister w opc.code layout.spec0.code layout.spec1.code layout.spec2.code
          (wellDefined w opc))

/-- The host's own way to present a word runs exactly the instruction the decoder reads from it (log 9), and a word the
decoder refuses is reported as an error. -/
def Obligations.PresentedWordRuns : Prop :=
  ∀ (s : State) (n w : Nat),
    (∀ i, decodeTableWord n w = some i → step (s.withFetchWord n w) = exec i s) ∧
    (decodeTableWord n w = none → ∃ t, step (s.withFetchWord n w) = .next t ∧ t.result.status ≠ 1#3)

/-! ### The step -/

/-- A step runs the decoded instruction: at a decode edge whose units decode to `i`, the step is `i`'s meaning in the state
whose first port sample is used up; the step adds nothing else. -/
def Obligations.StepRunsDecodedInstruction : Prop :=
  ∀ (s : State) (i : Instr), s.AtDecode → decodeUnits s.ports.unit0 s.ports.unit1 = .instr i →
    step s = exec i { result := s.result, inputs := s.inputs.tail }

/-- The same, from the encoder's side: a decode edge that presents the word of any well-formed instruction runs it. -/
def Obligations.EncodedInstructionRuns : Prop :=
  ∀ (s : State) (i : Instr), i.WellFormed = true → s.Presents (encode i) →
    step s = exec i { result := s.result, inputs := s.inputs.tail }

/-- R21, R39: the machine refines the spec's register transfer. Decoding into `Instr` and running one meaning per
instruction writes, at every edge and from every state, exactly the register that R21 with R39's `Decode` over the
mask-and-match table gives. -/
def Obligations.StepIsTheRegisterTransfer : Prop :=
  ∀ s : State, step s = .next { result := registerAfterEdge s.ports s.result, inputs := s.inputs.tail }

/-- R151, R152: a reset edge gives every field its reset value, whatever `req` and the stream inputs are; the lanes are then
empty and `n_ops` is 0. -/
def Obligations.ResetWinsOverRequest : Prop :=
  ∀ s : State, s.ports.rst = true →
    ∃ t, step s = .next t ∧ t.result = ⟨0#3, 0#2, 0#2, 0#32, 0#6, 0#4, 0#4, 0#4, false⟩ ∧ t.inputs = s.inputs.tail ∧
      t.outputs.nOps = 0#2 ∧ t.outputs.lane0 = .none ∧ t.outputs.lane1 = .none ∧ t.outputs.lane2 = .none

/-- R21, R149: an idle edge holds every field and every output. -/
def Obligations.IdleHolds : Prop :=
  ∀ s : State, s.ports.rst = false → s.ports.req = false →
    ∃ t, step s = .next t ∧ t.result = s.result ∧ t.outputs = s.outputs ∧ t.inputs = s.inputs.tail

/-- R142: nothing stops the block. Every edge from every state answers a next state; a decode edge always writes the
register, with a value that does not depend on what it held, and always reports one of the four outcomes of R139. -/
def Obligations.EveryDecodeEdgeWrites : Prop :=
  (∀ s : State, s.Completes) ∧
  (∀ s : State, s.AtDecode → ∃ r : ResultReg, (r.status = 1#3 ∨ r.status = 2#3 ∨ r.status = 3#3 ∨ r.status = 4#3) ∧
    ∀ old : ResultReg, step (s.latch old) = .next { result := r, inputs := s.inputs.tail })

/-- R142: no run of any length stops. -/
def Obligations.EveryRunIsSafe : Prop := ∀ (k : Nat) (s : State), SafeRun k s

/-- R65: every decode is an OK with a produced tag (codes 1 to 37, 39, 40) and three assigned specs, or one of the three
errors. -/
def Obligations.DecodeIsTotal : Prop :=
  ∀ s : State, s.AtDecode → ∃ t, step s = .next t ∧
    ((t.result.status = 1#3 ∧ Opcode.produced t.result.opc = true ∧
        t.result.spec0 ≤ 11#4 ∧ t.result.spec1 ≤ 11#4 ∧ t.result.spec2 ≤ 11#4) ∨
      t.result.status = 2#3 ∨ t.result.status = 3#3 ∨ t.result.status = 4#3)

/-- R140: which outcome a decode reports, and how many units it read: the rows of the table in their order, each under the
failure of those before it. The last row is the OK of a word the table's rows cover. -/
def Obligations.ErrorPriority : Prop :=
  ∀ s : State, s.AtDecode →
    let p := s.ports
    let w := wordOfUnits p.cu0 p.cu1
    (p.cu0Avail = false → StepReports s 2#3 0#2 0#2) ∧
    (p.cu0Avail = true → p.cu0.extractLsb' 0 2 ≠ 0b11#2 → StepReports s 3#3 1#2 1#2) ∧
    (p.cu0Avail = true → p.cu0.extractLsb' 0 2 = 0b11#2 → p.cu0.extractLsb' 2 3 = 0b111#3 →
      StepReports s 3#3 2#2 1#2) ∧
    (p.cu0Avail = true → p.cu0.extractLsb' 0 2 = 0b11#2 → p.cu0.extractLsb' 2 3 ≠ 0b111#3 →
      (p.cu1Avail = false → StepReports s 2#3 0#2 1#2) ∧
      (p.cu1Avail = true → w.extractLsb' 0 7 = 0b0001111#7 → StepReports s 3#3 3#2 2#2) ∧
      (p.cu1Avail = true → w.extractLsb' 0 7 ≠ 0b0001111#7 → (∀ row ∈ opcodeTable, row.covers w = false) →
        StepReports s 4#3 0#2 2#2) ∧
      (p.cu1Avail = true → w.extractLsb' 0 7 ≠ 0b0001111#7 → (∃ row ∈ opcodeTable, row.covers w = true) →
        StepReports s 1#3 0#2 2#2))

/-- R26: inputs that are not read do not matter. With `cu0_avail = 0` the stream inputs have no effect; with unit 0 outside
the 32-bit class unit 1 has none. -/
def Obligations.UnreadInputsHaveNoEffect : Prop :=
  ∀ s s' : State, s.AtDecode → s'.AtDecode → s.ports.cu0Avail = s'.ports.cu0Avail →
    (s.ports.cu0Avail = false ∨
      (s.ports.cu0 = s'.ports.cu0 ∧
        (s.ports.cu0.extractLsb' 0 2 ≠ 0b11#2 ∨ s.ports.cu0.extractLsb' 2 3 = 0b111#3))) →
    ∃ t t', step s = .next t ∧ step s' = .next t' ∧ t.outputs = t'.outputs

/-- R34, R141: a decode does not depend on anything before it. Two states that present the same inputs at a decode edge end
with the same outputs, whatever their registers held. -/
def Obligations.DecodesAreIndependent : Prop :=
  ∀ s s' : State, s.AtDecode → s'.ports = s.ports →
    ∃ t t', step s = .next t ∧ step s' = .next t' ∧ t.outputs = t'.outputs

/-! ### Invalid and unsupported words -/

/-- R85, R90, R101, R113, R118, and what R78 says a consumer may read: a word of a named group whose sub-key matches no
entry is InvalidOpcode with two units read. -/
def Obligations.UnmatchedSubKeysAreInvalid : Prop :=
  ∀ (s : State) (w : Word), s.Presents w →
    let major := w.extractLsb' 0 7
    let f3 := w.extractLsb' 12 3
    let f7 := w.extractLsb' 25 7
    (major = 0b1100011#7 → (f3 = 0b010#3 ∨ f3 = 0b011#3) → StepReports s 4#3 0#2 2#2) ∧
    (major = 0b0000011#7 → (f3 = 0b011#3 ∨ f3 = 0b110#3 ∨ f3 = 0b111#3) → StepReports s 4#3 0#2 2#2) ∧
    (major = 0b0100011#7 → 0b011#3 ≤ f3 → StepReports s 4#3 0#2 2#2) ∧
    (major = 0b0010011#7 → f3 = 0b101#3 → f7 ≠ 0b0000000#7 → f7 ≠ 0b0100000#7 → StepReports s 4#3 0#2 2#2) ∧
    (major = 0b0110011#7 → (f3 = 0b000#3 ∨ f3 = 0b101#3) → f7 ≠ 0b0000000#7 → f7 ≠ 0b0100000#7 →
      StepReports s 4#3 0#2 2#2) ∧
    (major = 0b1110011#7 → w.extractLsb' 20 12 ≠ 0x000#12 → w.extractLsb' 20 12 ≠ 0x001#12 → StepReports s 4#3 0#2 2#2)

/-- R120: a word of the 32-bit class whose major opcode is none of the eleven is InvalidOpcode, two units read. -/
def Obligations.UnnamedMajorOpcodesAreInvalid : Prop :=
  ∀ (s : State) (w : Word), s.Presents w → w.extractLsb' 0 2 = 0b11#2 → w.extractLsb' 2 3 ≠ 0b111#3 →
    w.extractLsb' 0 7 ∉ [0b0110111#7, 0b0010111#7, 0b1101111#7, 0b1100111#7, 0b1100011#7, 0b0000011#7, 0b0100011#7,
      0b0010011#7, 0b0110011#7, 0b0001111#7, 0b1110011#7] →
    StepReports s 4#3 0#2 2#2

/-- R114: every word of the FENCE group is UnsupportedEncoding with sub-reason FenceGroup, two units read, whatever its
other bits. -/
def Obligations.FenceGroupIsUnsupported : Prop :=
  ∀ (s : State) (w : Word), s.Presents w → w.extractLsb' 0 7 = 0b0001111#7 → StepReports s 3#3 3#2 2#2

/-- R119: no decode produces a tag that is only declared (38, 41 to 52) or unassigned (53 to 63), and the words that carry
the RV64 instructions elsewhere are InvalidOpcode here. -/
def Obligations.DeclaredTagsAreNeverProduced : Prop :=
  (∀ s t : State, s.AtDecode → step s = .next t → t.result.status = 1#3 → t.result.opc ≠ 38#6 ∧ t.result.opc < 41#6) ∧
  (∀ (s : State) (w : Word), s.Presents w →
    (w.extractLsb' 0 7 = 0b0000011#7 ∧ (w.extractLsb' 12 3 = 0b011#3 ∨ w.extractLsb' 12 3 = 0b110#3)) ∨
      (w.extractLsb' 0 7 = 0b0100011#7 ∧ w.extractLsb' 12 3 = 0b011#3) ∨
      w.extractLsb' 0 7 = 0b0011011#7 ∨ w.extractLsb' 0 7 = 0b0111011#7 →
    StepReports s 4#3 0#2 2#2)

/-! ### Don't-care bits and the well-defined flag -/

/-- R61, R138: two presented words that differ only in the don't-care bits of the instruction decoded give the same tag,
the same specs, the same lanes and the same text. The word and `R_WD` may differ (R61, R62); nothing is said of them. -/
def Obligations.DontCareBitsKeepDecodeAndText : Prop :=
  ∀ (s s' t : State) (w w' : Word) (opc : Opcode), s.Presents w → s'.Presents w' → step s = .next t →
    t.result.status = 1#3 → t.result.opc = opc.code →
    w &&& ~~~ dontCareMask opc = w' &&& ~~~ dontCareMask opc →
    ∃ t', step s' = .next t' ∧ t'.result.status = 1#3 ∧ t'.result.opc = t.result.opc ∧
      t'.result.spec0 = t.result.spec0 ∧ t'.result.spec1 = t.result.spec1 ∧ t'.result.spec2 = t.result.spec2 ∧
      t'.outputs.lane0 = t.outputs.lane0 ∧ t'.outputs.lane1 = t.outputs.lane1 ∧ t'.outputs.lane2 = t.outputs.lane2 ∧
      render t'.result = render t.result

/-- R62: after an OK, `R_WD` is 0 exactly when a don't-care bit differs from its canonical value: funct3 of JALR (4), funct7
of SLLI (25) and of SLL, SLT, SLTU, XOR, OR, AND (30 to 33, 36, 37), `w[19:7]` of ECALL and EBREAK (39, 40). -/
def Obligations.WellDefinedFlagRule : Prop :=
  ∀ (s t : State) (w : Word), s.Presents w → step s = .next t → t.result.status = 1#3 →
    (t.result.wd = false ↔
      (t.result.opc = 4#6 ∧ w.extractLsb' 12 3 ≠ 0b000#3) ∨
      (t.result.opc ∈ [25#6, 30#6, 31#6, 32#6, 33#6, 36#6, 37#6] ∧ w.extractLsb' 25 7 ≠ 0b0000000#7) ∨
      (t.result.opc ∈ [39#6, 40#6] ∧ w.extractLsb' 7 13 ≠ 0#13))

/-! ### The invariant of the register -/

/-- R22, R152: the invariant holds at reset. -/
def Obligations.InvariantAtReset : Prop := State.reset.Inv

/-- R22: every edge keeps the invariant: the register stays legal, and after an OK its tag, layout and flag are those the
opcode table gives the word it holds. -/
def Obligations.InvariantKeptByEveryEdge : Prop := ∀ s t : State, s.Inv → step s = .next t → t.Inv

/-- R22, R153: one reset or decode edge establishes the invariant from ANY content of the register, a power-up draw
included; and after an OK the word is the combined word of the two units, verbatim. -/
def Obligations.OneEdgeEstablishesInvariant : Prop :=
  ∀ s t : State, s.ports.rst = true ∨ s.ports.req = true → step s = .next t →
    t.Inv ∧ (t.result.status = 1#3 → s.ports.rst = false ∧ s.ports.cu0Avail = true ∧ s.ports.cu1Avail = true ∧
      t.result.word = wordOfUnits s.ports.cu0 s.ports.cu1)

/-- R153: the power-up draw is gone after one decode: whatever the nine fields held, the first decode leaves what it would
leave after reset. -/
def Obligations.FirstDecodeRemovesThePowerUpDraw : Prop :=
  ∀ (p : PortSample) (rest : List PortSample), p.req = true →
    step (State.powerUp (p :: rest)) = step { result := .reset, inputs := p :: rest }

/-! ### Length class, byte order, fields -/

/-- R37: the length class by arithmetic on unit 0. -/
def Obligations.LengthClassOfUnitZero : Prop :=
  ∀ cu0 : CodeUnit,
    (lenClass cu0 = .compressed16 ↔ cu0.toNat % 4 ≠ 3) ∧
    (lenClass cu0 = .wide48Plus ↔ cu0.toNat % 32 = 31) ∧
    (lenClass cu0 = .len32 ↔ cu0.toNat % 4 = 3 ∧ cu0.toNat % 32 ≠ 31)

/-- R27, R28: the byte order. Code unit `k` is the little-endian pair at bytes `2k` and `2k + 1`, present exactly when both
bytes are, and unit 0 is the low half of the word. -/
def Obligations.LittleEndianStream : Prop :=
  (∀ (bytes : List Byte) (k : Nat) (lo hi : Byte), bytes[2 * k]? = some lo → bytes[2 * k + 1]? = some hi →
    ∃ u : CodeUnit, unitAt bytes k = some u ∧ u.toNat = lo.toNat + 2 ^ 8 * hi.toNat) ∧
  (∀ (bytes : List Byte) (k : Nat), unitAt bytes k = none ↔ bytes.length < 2 * k + 2) ∧
  (∀ cu0 cu1 : CodeUnit, (wordOfUnits cu0 cu1).toNat = cu0.toNat + 2 ^ 16 * cu1.toNat) ∧
  (∀ (b0 b1 b2 b3 : Byte), ∃ cu0 cu1 : CodeUnit, unitAt [b0, b1, b2, b3] 0 = some cu0 ∧
    unitAt [b0, b1, b2, b3] 1 = some cu1 ∧
    (wordOfUnits cu0 cu1).toNat = b0.toNat + 2 ^ 8 * b1.toNat + 2 ^ 16 * b2.toNat + 2 ^ 24 * b3.toNat)

/-- R43 to R46, R50: the unsigned fields, by arithmetic on the word. -/
def Obligations.UnsignedFieldValues : Prop :=
  ∀ w : Word,
    (fieldOf w .rs1).toNat = w.toNat / 2 ^ 15 % 32 ∧
    (fieldOf w .rs2).toNat = w.toNat / 2 ^ 20 % 32 ∧
    (fieldOf w .rd).toNat = w.toNat / 2 ^ 7 % 32 ∧
    (fieldOf w .shamt).toNat = w.toNat / 2 ^ 20 % 32 ∧
    (fieldOf w .imm20U).toNat = w.toNat / 2 ^ 12 * 2 ^ 12

/-- R47 to R49, R51: the signed immediates, by arithmetic on the word, with their ranges; branch and jump displacements are
even. -/
def Obligations.SignedFieldValues : Prop :=
  ∀ w : Word,
    (fieldOf w .imm12I).toInt = (w.toNat / 2 ^ 20 % 2 ^ 11 : Nat) - 2 ^ 11 * (w.toNat / 2 ^ 31 : Nat) ∧
    (fieldOf w .imm12S).toInt =
      (w.toNat / 2 ^ 25 % 2 ^ 6 * 2 ^ 5 + w.toNat / 2 ^ 7 % 2 ^ 5 : Nat) - 2 ^ 11 * (w.toNat / 2 ^ 31 : Nat) ∧
    (fieldOf w .imm12B).toInt =
      (w.toNat / 2 ^ 7 % 2 * 2 ^ 11 + w.toNat / 2 ^ 25 % 2 ^ 6 * 2 ^ 5 + w.toNat / 2 ^ 8 % 2 ^ 4 * 2 : Nat) -
        2 ^ 12 * (w.toNat / 2 ^ 31 : Nat) ∧
    (fieldOf w .imm20J).toInt =
      (w.toNat / 2 ^ 12 % 2 ^ 8 * 2 ^ 12 + w.toNat / 2 ^ 20 % 2 * 2 ^ 11 + w.toNat / 2 ^ 21 % 2 ^ 10 * 2 : Nat) -
        2 ^ 20 * (w.toNat / 2 ^ 31 : Nat) ∧
    (-2048 ≤ (fieldOf w .imm12I).toInt ∧ (fieldOf w .imm12I).toInt ≤ 2047) ∧
    (-2048 ≤ (fieldOf w .imm12S).toInt ∧ (fieldOf w .imm12S).toInt ≤ 2047) ∧
    (-4096 ≤ (fieldOf w .imm12B).toInt ∧ (fieldOf w .imm12B).toInt ≤ 4094 ∧ (fieldOf w .imm12B).toInt % 2 = 0) ∧
    (-1048576 ≤ (fieldOf w .imm20J).toInt ∧ (fieldOf w .imm20J).toInt ≤ 1048574 ∧
      (fieldOf w .imm20J).toInt % 2 = 0)

/-- R52: the round trip of field extraction. (a) the sign of a signed field is `w[31]`; (b) every bit a field uses is read
back at a fixed place; (c) the bits above a field are its sign, or 0 where it is unsigned. -/
def Obligations.FieldExtractionRoundTrip : Prop :=
  ∀ w : Word,
    (∀ f ∈ [FieldSpec.imm12I, .imm12S, .imm12B, .imm20J], (fieldOf w f).getLsbD 31 = w.getLsbD 31) ∧
    (fieldOf w .imm12I).extractLsb' 0 12 = w.extractLsb' 20 12 ∧
    ((fieldOf w .imm12S).extractLsb' 5 7 = w.extractLsb' 25 7 ∧
      (fieldOf w .imm12S).extractLsb' 0 5 = w.extractLsb' 7 5) ∧
    ((fieldOf w .imm12B).extractLsb' 12 1 = w.extractLsb' 31 1 ∧
      (fieldOf w .imm12B).extractLsb' 11 1 = w.extractLsb' 7 1 ∧
      (fieldOf w .imm12B).extractLsb' 5 6 = w.extractLsb' 25 6 ∧
      (fieldOf w .imm12B).extractLsb' 1 4 = w.extractLsb' 8 4) ∧
    (fieldOf w .imm20U).extractLsb' 12 20 = w.extractLsb' 12 20 ∧
    ((fieldOf w .imm20J).extractLsb' 20 1 = w.extractLsb' 31 1 ∧
      (fieldOf w .imm20J).extractLsb' 12 8 = w.extractLsb' 12 8 ∧
      (fieldOf w .imm20J).extractLsb' 11 1 = w.extractLsb' 20 1 ∧
      (fieldOf w .imm20J).extractLsb' 1 10 = w.extractLsb' 21 10) ∧
    ((fieldOf w .rs1).extractLsb' 0 5 = w.extractLsb' 15 5 ∧ (fieldOf w .rs2).extractLsb' 0 5 = w.extractLsb' 20 5 ∧
      (fieldOf w .rd).extractLsb' 0 5 = w.extractLsb' 7 5 ∧ (fieldOf w .shamt).extractLsb' 0 5 = w.extractLsb' 20 5) ∧
    (∀ i, 12 ≤ i → i < 32 → (fieldOf w .imm12I).getLsbD i = w.getLsbD 31 ∧ (fieldOf w .imm12S).getLsbD i = w.getLsbD 31) ∧
    (∀ i, 13 ≤ i → i < 32 → (fieldOf w .imm12B).getLsbD i = w.getLsbD 31) ∧
    (∀ i, 21 ≤ i → i < 32 → (fieldOf w .imm20J).getLsbD i = w.getLsbD 31) ∧
    (∀ f ∈ [FieldSpec.rs1, .rs2, .rd, .shamt], ∀ i, 5 ≤ i → (fieldOf w f).getLsbD i = false) ∧
    (∀ i, i < 12 → (fieldOf w .imm20U).getLsbD i = false) ∧
    (fieldOf w .imm12B).getLsbD 0 = false ∧ (fieldOf w .imm20J).getLsbD 0 = false

/-- R54, R55: resolution loses nothing. Each spec resolves to the operand of its kind, and the truncated register index,
shift amount and base offset read back as the values the field extractor gave. -/
def Obligations.ResolutionLosesNothing : Prop :=
  ∀ w : Word,
    resolve w .nothing = none ∧
    (∃ i, resolve w .rs1 = some (.reg i) ∧ i.toNat = (fieldOf w .rs1).toNat) ∧
    (∃ i, resolve w .rs2 = some (.reg i) ∧ i.toNat = (fieldOf w .rs2).toNat) ∧
    (∃ i, resolve w .rd = some (.reg i) ∧ i.toNat = (fieldOf w .rd).toNat) ∧
    (∃ n, resolve w .shamt = some (.shift n) ∧ n.toNat = (fieldOf w .shamt).toNat) ∧
    (∃ i o, resolve w .baseOffsetRs1I = some (.baseOffset i o) ∧ i.toNat = (fieldOf w .rs1).toNat ∧
      o.toInt = (fieldOf w .imm12I).toInt) ∧
    (∃ i o, resolve w .baseOffsetRs1S = some (.baseOffset i o) ∧ i.toNat = (fieldOf w .rs1).toNat ∧
      o.toInt = (fieldOf w .imm12S).toInt) ∧
    (∃ v, resolve w .imm12I = some (.imm v) ∧ v.toInt = (fieldOf w .imm12I).toInt) ∧
    (∃ v, resolve w .imm12S = some (.imm v) ∧ v.toInt = (fieldOf w .imm12S).toInt) ∧
    (∃ v, resolve w .imm12B = some (.jOffset v) ∧ v.toInt = (fieldOf w .imm12B).toInt) ∧
    (∃ v, resolve w .imm20J = some (.jOffset v) ∧ v.toInt = (fieldOf w .imm20J).toInt) ∧
    (∃ v, resolve w .imm20U = some (.longImm v) ∧ v.toNat = (fieldOf w .imm20U).toNat)

/-! ### Rendering -/

/-- R121, R122: after a decode, `Render` has a text exactly when the status is OK. -/
def Obligations.RenderDefinedExactlyOnOk : Prop :=
  ∀ s t : State, s.AtDecode → step s = .next t → ((render t.result).isSome = true ↔ t.result.status = 1#3)

/-- R124, R125, R138: ADDI with immediate 0 renders `nop` where `rd = rs1`, for every register, and `mv` otherwise. -/
def Obligations.AddiZeroRendersNopOrMv : Prop :=
  ∀ (s : State) (d r : RegIndex),
    ExecRenders (.addi d d 0#12) s "nop" ∧
    (d ≠ r → ExecRenders (.addi d r 0#12) s ("mv " ++ regName d ++ ", " ++ regName r))

/-- R126, R127: BEQ of a register with itself renders its displacement alone; SLL by register 0 into itself renders `nop`,
whatever its funct7, and SLLI by 0 does not. -/
def Obligations.BeqAndSllPseudoForms : Prop :=
  ∀ (s : State) (a : RegIndex) (b : BitVec 13) (f7 : BitVec 7), b.getLsbD 0 = false →
    ExecRenders (.beq a a b) s ("beq " ++ (if b.toInt < 0 then "$-" else "$+") ++ hexText b.toInt.natAbs) ∧
    ExecRenders (.sll a a 0#5 f7) s "nop" ∧
    ExecRenders (.slli a a 0#5 f7) s ("slli " ++ regName a ++ ", " ++ regName a ++ ", 0x0")

/-- R129, R133, R134: the generic text of upper immediates, loads and stores: the upper 20 bits unsigned, a base with its
signed offset, no numeral where the offset is 0. -/
def Obligations.GenericTextOfUpperAndMemoryForms : Prop :=
  ∀ (s : State) (rd rs1 rs2 : RegIndex) (u : BitVec 20) (o : BitVec 12),
    let mem : String := (if o = 0#12 then "" else (if o.toInt < 0 then "-" else "") ++ hexText o.toInt.natAbs) ++
      "(" ++ regName rs1 ++ ")"
    ExecRenders (.lui rd u) s ("lui " ++ regName rd ++ ", " ++ hexText u.toNat) ∧
    ExecRenders (.auipc rd u) s ("auipc " ++ regName rd ++ ", " ++ hexText u.toNat) ∧
    ExecRenders (.lb rd rs1 o) s ("lb " ++ regName rd ++ ", " ++ mem) ∧
    ExecRenders (.lh rd rs1 o) s ("lh " ++ regName rd ++ ", " ++ mem) ∧
    ExecRenders (.lw rd rs1 o) s ("lw " ++ regName rd ++ ", " ++ mem) ∧
    ExecRenders (.lbu rd rs1 o) s ("lbu " ++ regName rd ++ ", " ++ mem) ∧
    ExecRenders (.lhu rd rs1 o) s ("lhu " ++ regName rd ++ ", " ++ mem) ∧
    ExecRenders (.sb rs2 rs1 o) s ("sb " ++ regName rs2 ++ ", " ++ mem) ∧
    ExecRenders (.sh rs2 rs1 o) s ("sh " ++ regName rs2 ++ ", " ++ mem) ∧
    ExecRenders (.sw rs2 rs1 o) s ("sw " ++ regName rs2 ++ ", " ++ mem)

/-- R129, R132, R135 to R137: the generic text of the other forms, for every instruction no pseudo rule takes: registers by
name, signed immediates, unsigned shift amounts, displacements after `$+` or `$-`, and the bare mnemonic without
operands. -/
def Obligations.GenericTextOfAluAndJumpForms : Prop :=
  ∀ (s : State) (rd rs1 rs2 : RegIndex) (imm : BitVec 12) (sh : BitVec 5) (f3 : BitVec 3) (f7 : BitVec 7)
    (b : BitVec 13) (j : BitVec 21) (rest : BitVec 13), b.getLsbD 0 = false → j.getLsbD 0 = false →
    let signed : String := (if imm.toInt < 0 then "-" else "") ++ hexText imm.toInt.natAbs
    let displacement (v : Int) : String := (if v < 0 then "$-" else "$+") ++ hexText v.natAbs
    let regs (r1 r2 : RegIndex) : String := regName r1 ++ ", " ++ regName r2 ++ ", "
    ExecRenders (.jal rd j) s ("jal " ++ regName rd ++ ", " ++ displacement j.toInt) ∧
    ExecRenders (.jalr rd rs1 imm f3) s ("jalr " ++ regs rd rs1 ++ signed) ∧
    (rs1 ≠ rs2 → ExecRenders (.beq rs1 rs2 b) s ("beq " ++ regs rs1 rs2 ++ displacement b.toInt)) ∧
    ExecRenders (.bne rs1 rs2 b) s ("bne " ++ regs rs1 rs2 ++ displacement b.toInt) ∧
    ExecRenders (.blt rs1 rs2 b) s ("blt " ++ regs rs1 rs2 ++ displacement b.toInt) ∧
    ExecRenders (.bge rs1 rs2 b) s ("bge " ++ regs rs1 rs2 ++ displacement b.toInt) ∧
    ExecRenders (.bltu rs1 rs2 b) s ("bltu " ++ regs rs1 rs2 ++ displacement b.toInt) ∧
    ExecRenders (.bgeu rs1 rs2 b) s ("bgeu " ++ regs rs1 rs2 ++ displacement b.toInt) ∧
    (imm ≠ 0#12 → ExecRenders (.addi rd rs1 imm) s ("addi " ++ regs rd rs1 ++ signed)) ∧
    ExecRenders (.slti rd rs1 imm) s ("slti " ++ regs rd rs1 ++ signed) ∧
    ExecRenders (.sltiu rd rs1 imm) s ("sltiu " ++ regs rd rs1 ++ signed) ∧
    ExecRenders (.xori rd rs1 imm) s ("xori " ++ regs rd rs1 ++ signed) ∧
    ExecRenders (.ori rd rs1 imm) s ("ori " ++ regs rd rs1 ++ signed) ∧
    ExecRenders (.andi rd rs1 imm) s ("andi " ++ regs rd rs1 ++ signed) ∧
    ExecRenders (.slli rd rs1 sh f7) s ("slli " ++ regs rd rs1 ++ hexText sh.toNat) ∧
    ExecRenders (.srli rd rs1 sh) s ("srli " ++ regs rd rs1 ++ hexText sh.toNat) ∧
    ExecRenders (.srai rd rs1 sh) s ("srai " ++ regs rd rs1 ++ hexText sh.toNat) ∧
    ExecRenders (.add rd rs1 rs2) s ("add " ++ regs rd rs1 ++ regName rs2) ∧
    ExecRenders (.sub rd rs1 rs2) s ("sub " ++ regs rd rs1 ++ regName rs2) ∧
    (¬ (rd = rs1 ∧ rs2 = 0#5) → ExecRenders (.sll rd rs1 rs2 f7) s ("sll " ++ regs rd rs1 ++ regName rs2)) ∧
    ExecRenders (.slt rd rs1 rs2 f7) s ("slt " ++ regs rd rs1 ++ regName rs2) ∧
    ExecRenders (.sltu rd rs1 rs2 f7) s ("sltu " ++ regs rd rs1 ++ regName rs2) ∧
    ExecRenders (.xor rd rs1 rs2 f7) s ("xor " ++ regs rd rs1 ++ regName rs2) ∧
    ExecRenders (.srl rd rs1 rs2) s ("srl " ++ regs rd rs1 ++ regName rs2) ∧
    ExecRenders (.sra rd rs1 rs2) s ("sra " ++ regs rd rs1 ++ regName rs2) ∧
    ExecRenders (.or rd rs1 rs2 f7) s ("or " ++ regs rd rs1 ++ regName rs2) ∧
    ExecRenders (.and rd rs1 rs2 f7) s ("and " ++ regs rd rs1 ++ regName rs2) ∧
    ExecRenders (.ecall rest) s "ecall" ∧
    ExecRenders (.ebreak rest) s "ebreak"

/-- R130: the register names, by the ranges the source gives: `zero, ra, sp, gp, tp, t0-t2, s0-s1, a0-a7, s2-s11, t3-t6`. -/
def Obligations.RegisterNamesFollowTheTable : Prop :=
  regName 0 = "zero" ∧ regName 1 = "ra" ∧ regName 2 = "sp" ∧ regName 3 = "gp" ∧ regName 4 = "tp" ∧
  (∀ k : Nat, k < 3 → regName (BitVec.ofNat 5 (5 + k)) = "t" ++ Nat.repr k) ∧
  (∀ k : Nat, k < 2 → regName (BitVec.ofNat 5 (8 + k)) = "s" ++ Nat.repr k) ∧
  (∀ k : Nat, k < 8 → regName (BitVec.ofNat 5 (10 + k)) = "a" ++ Nat.repr k) ∧
  (∀ k : Nat, k < 10 → regName (BitVec.ofNat 5 (18 + k)) = "s" ++ Nat.repr (2 + k)) ∧
  (∀ k : Nat, k < 4 → regName (BitVec.ofNat 5 (28 + k)) = "t" ++ Nat.repr (3 + k))

/-- R131: the numerals. For every 32-bit value the digits are lower-case hexadecimal, read back as the value, and have no
leading zero; 0 prints as `0x0`. -/
def Obligations.HexNumeralsReadBack : Prop :=
  hexText 0 = "0x0" ∧
  ∀ n : Nat, n < 2 ^ 32 → ∃ digits : List Char, hexText n = "0x" ++ String.ofList digits ∧ hexValue digits = n ∧
    (∀ c ∈ digits, IsLowerHex c) ∧ (n ≠ 0 → ∃ c rest, digits = c :: rest ∧ c ≠ '0')

/-! ### The harness -/

/-- R156: `Walk` always stops, on its first StreamExhausted and on no earlier entry, after at most `floor(L/2) + 1` decodes;
the register then holds the last entry's result. -/
def Obligations.WalkAlwaysStops : Prop :=
  ∀ (bytes : List Byte) (s : State), ∃ (before : List WalkEntry) (last : WalkEntry),
    (walk bytes s).1 = before ++ [last] ∧ last.result.status = 2#3 ∧ (∀ e ∈ before, e.result.status ≠ 2#3) ∧
    before.length ≤ bytes.length / 2 ∧ (walk bytes s).2.result = last.result

/-- R156: what the trace holds. It starts at cursor 0; each entry's result is R39's `Decode` of the two units at its cursor;
each next cursor is `max(R_UNITS, 1)` further on. -/
def Obligations.WalkFollowsItsRule : Prop :=
  ∀ (bytes : List Byte) (s : State),
    ((walk bytes s).1.head?.map (·.cur) = some 0) ∧
    (∀ e ∈ (walk bytes s).1, e.result =
      decodeRegister ((unitAt bytes e.cur).getD 0) (unitAt bytes e.cur).isSome
        ((unitAt bytes (e.cur + 1)).getD 0) (unitAt bytes (e.cur + 1)).isSome) ∧
    (walk bytes s).1.IsChain (fun a b => b.cur = a.cur + max a.result.units.toNat 1)
end

