-- ==== Sys2Proof/Laws/Fields.lean ====
section
/-! SUPPORT. The small lemmas of the encoder's packers and the decoder's field slices: the bits of a packed word, each
field of a packed word, and a word packed again from its own fields. Later proofs cite these and unfold neither. -/

namespace Sys2Proof

/-! ### The bits of a packed word -/

theorem getLsbD_packU (imm : BitVec 20) (rd : RegIndex) (m : BitVec 7) (i : Nat) :
    (packU imm rd m).getLsbD i =
      if i < 7 then m.getLsbD i else if i < 12 then rd.getLsbD (i - 7) else imm.getLsbD (i - 12) := by
  show @BitVec.getLsbD (20 + 5 + 7) (imm ++ rd ++ m) i = _
  simp only [BitVec.getLsbD_append]
  split_ifs <;> first | rfl | omega

theorem getLsbD_packR (f7 : BitVec 7) (rs2 rs1 : BitVec 5) (f3 : BitVec 3) (rd : RegIndex) (m : BitVec 7) (i : Nat) :
    (packR f7 rs2 rs1 f3 rd m).getLsbD i =
      if i < 7 then m.getLsbD i else if i < 12 then rd.getLsbD (i - 7) else if i < 15 then f3.getLsbD (i - 12)
      else if i < 20 then rs1.getLsbD (i - 15) else if i < 25 then rs2.getLsbD (i - 20) else f7.getLsbD (i - 25) := by
  show @BitVec.getLsbD (7 + 5 + 5 + 3 + 5 + 7) (f7 ++ rs2 ++ rs1 ++ f3 ++ rd ++ m) i = _
  simp only [BitVec.getLsbD_append]
  split_ifs <;> first | rfl | omega

theorem getLsbD_packI (imm : BitVec 12) (rs1 : RegIndex) (f3 : BitVec 3) (rd : RegIndex) (m : BitVec 7) (i : Nat) :
    (packI imm rs1 f3 rd m).getLsbD i =
      if i < 7 then m.getLsbD i else if i < 12 then rd.getLsbD (i - 7) else if i < 15 then f3.getLsbD (i - 12)
      else if i < 20 then rs1.getLsbD (i - 15) else imm.getLsbD (i - 20) := by
  show @BitVec.getLsbD (12 + 5 + 3 + 5 + 7) (imm ++ rs1 ++ f3 ++ rd ++ m) i = _
  simp only [BitVec.getLsbD_append]
  split_ifs <;> first | rfl | omega

theorem getLsbD_packS (imm : BitVec 12) (rs2 rs1 : RegIndex) (f3 : BitVec 3) (m : BitVec 7) (i : Nat) :
    (packS imm rs2 rs1 f3 m).getLsbD i =
      if i < 7 then m.getLsbD i else if i < 12 then imm.getLsbD (i - 7) else if i < 15 then f3.getLsbD (i - 12)
      else if i < 20 then rs1.getLsbD (i - 15) else if i < 25 then rs2.getLsbD (i - 20) else imm.getLsbD (i - 20) := by
  show @BitVec.getLsbD (7 + 5 + 5 + 3 + 5 + 7)
    (imm.extractLsb' 5 7 ++ rs2 ++ rs1 ++ f3 ++ imm.extractLsb' 0 5 ++ m) i = _
  simp only [BitVec.getLsbD_append, BitVec.getLsbD_extractLsb']
  split_ifs
  all_goals first
    | rfl
    | omega
    | (simp only [show i - 7 < 5 by omega, decide_true, Bool.true_and, Nat.zero_add])
    | skip
  by_cases h : i < 32
  · simp only [show i - 7 - 5 - 3 - 5 - 5 < 7 by omega, show 5 + (i - 7 - 5 - 3 - 5 - 5) = i - 20 by omega,
      decide_true, Bool.true_and]
  · simp [show ¬ i - 7 - 5 - 3 - 5 - 5 < 7 by omega, imm.getLsbD_of_ge (i - 20) (by omega)]

theorem getLsbD_packB (imm : BitVec 13) (rs2 rs1 : RegIndex) (f3 : BitVec 3) (m : BitVec 7) (i : Nat) :
    (packB imm rs2 rs1 f3 m).getLsbD i =
      if i < 7 then m.getLsbD i else if i < 8 then imm.getLsbD 11 else if i < 12 then imm.getLsbD (i - 7)
      else if i < 15 then f3.getLsbD (i - 12) else if i < 20 then rs1.getLsbD (i - 15)
      else if i < 25 then rs2.getLsbD (i - 20) else if i < 31 then imm.getLsbD (i - 20)
      else decide (i = 31) && imm.getLsbD 12 := by
  show @BitVec.getLsbD (1 + 6 + 5 + 5 + 3 + 4 + 1 + 7) (imm.extractLsb' 12 1 ++ imm.extractLsb' 5 6 ++ rs2 ++ rs1 ++ f3 ++
    imm.extractLsb' 1 4 ++ imm.extractLsb' 11 1 ++ m) i = _
  simp only [BitVec.getLsbD_append, BitVec.getLsbD_extractLsb']
  split_ifs
  all_goals first
    | rfl
    | omega
    | (have : i - 7 = 0 := by omega
       simp [this])
    | (simp only [show i - 7 - 1 < 4 by omega, show 1 + (i - 7 - 1) = i - 7 by omega, decide_true, Bool.true_and])
    | (simp only [show i - 7 - 1 - 4 - 3 - 5 - 5 < 6 by omega,
        show 5 + (i - 7 - 1 - 4 - 3 - 5 - 5) = i - 20 by omega, decide_true, Bool.true_and])
    | skip
  by_cases h : i = 31
  · subst h; rfl
  · simp [h, show ¬ i - 7 - 1 - 4 - 3 - 5 - 5 - 6 < 1 by omega]

theorem getLsbD_packJ (imm : BitVec 21) (rd : RegIndex) (m : BitVec 7) (i : Nat) :
    (packJ imm rd m).getLsbD i =
      if i < 7 then m.getLsbD i else if i < 12 then rd.getLsbD (i - 7) else if i < 20 then imm.getLsbD i
      else if i < 21 then imm.getLsbD 11 else if i < 31 then imm.getLsbD (i - 20)
      else decide (i = 31) && imm.getLsbD 20 := by
  show @BitVec.getLsbD (1 + 10 + 1 + 8 + 5 + 7) (imm.extractLsb' 20 1 ++ imm.extractLsb' 1 10 ++ imm.extractLsb' 11 1 ++
    imm.extractLsb' 12 8 ++ rd ++ m) i = _
  simp only [BitVec.getLsbD_append, BitVec.getLsbD_extractLsb']
  split_ifs
  all_goals first
    | rfl
    | omega
    | (simp only [show i - 7 - 5 < 8 by omega, show 12 + (i - 7 - 5) = i by omega, decide_true, Bool.true_and])
    | (have : i - 7 - 5 - 8 = 0 := by omega
       simp [this])
    | (simp only [show i - 7 - 5 - 8 - 1 < 10 by omega, show 1 + (i - 7 - 5 - 8 - 1) = i - 20 by omega, decide_true,
        Bool.true_and])
    | skip
  by_cases h : i = 31
  · subst h; rfl
  · simp [h, show ¬ i - 7 - 5 - 8 - 1 - 10 < 1 by omega]

theorem getLsbD_packSystem (key : BitVec 12) (rest : BitVec 13) (m : BitVec 7) (i : Nat) :
    (packSystem key rest m).getLsbD i =
      if i < 7 then m.getLsbD i else if i < 20 then rest.getLsbD (i - 7) else key.getLsbD (i - 20) := by
  show @BitVec.getLsbD (12 + 13 + 7) (key ++ rest ++ m) i = _
  simp only [BitVec.getLsbD_append]
  split_ifs <;> first | rfl | omega

theorem getLsbD_packFence (rest : BitVec 25) (m : BitVec 7) (i : Nat) :
    (packFence rest m).getLsbD i = if i < 7 then m.getLsbD i else rest.getLsbD (i - 7) := by
  show @BitVec.getLsbD (25 + 7) (rest ++ m) i = _
  simp only [BitVec.getLsbD_append]

/-! ### The bits of a scattered immediate -/

theorem getLsbD_immSOf (w : Word) (i : Nat) :
    (immSOf w).getLsbD i = if i < 5 then w.getLsbD (i + 7) else decide (i < 12) && w.getLsbD (i + 20) := by
  show @BitVec.getLsbD (7 + 5) (w.extractLsb' 25 7 ++ w.extractLsb' 7 5) i = _
  simp only [BitVec.getLsbD_append, BitVec.getLsbD_extractLsb']
  split_ifs with h
  · simp [h, Nat.add_comm]
  · by_cases h' : i < 12
    · simp [h', show i - 5 < 7 by omega, show 25 + (i - 5) = i + 20 by omega]
    · simp [h', show ¬ i - 5 < 7 by omega]

theorem getLsbD_immBOf (w : Word) (i : Nat) (hi : i < 13) :
    (immBOf w).getLsbD i =
      if i = 0 then false else if i < 5 then w.getLsbD (i + 7) else if i < 11 then w.getLsbD (i + 20)
      else if i = 11 then w.getLsbD 7 else w.getLsbD 31 := by
  show @BitVec.getLsbD (1 + 1 + 6 + 4 + 1) (w.extractLsb' 31 1 ++ w.extractLsb' 7 1 ++ w.extractLsb' 25 6 ++
    w.extractLsb' 8 4 ++ 0#1) i = _
  simp only [BitVec.getLsbD_append, BitVec.getLsbD_extractLsb']
  interval_cases i <;> simp

theorem getLsbD_immJOf (w : Word) (i : Nat) (hi : i < 21) :
    (immJOf w).getLsbD i =
      if i = 0 then false else if i < 11 then w.getLsbD (i + 20) else if i = 11 then w.getLsbD 20
      else if i < 20 then w.getLsbD i else w.getLsbD 31 := by
  show @BitVec.getLsbD (1 + 8 + 1 + 10 + 1) (w.extractLsb' 31 1 ++ w.extractLsb' 12 8 ++ w.extractLsb' 20 1 ++
    w.extractLsb' 21 10 ++ 0#1) i = _
  simp only [BitVec.getLsbD_append, BitVec.getLsbD_extractLsb']
  interval_cases i <;> simp

/-- Bit 0 of an `Imm12B` is 0 (R31, R49). -/
@[simp] theorem immBOf_bit0 (w : Word) : (immBOf w).getLsbD 0 = false := by
  rw [getLsbD_immBOf w 0 (by omega)]; rfl

/-- Bit 0 of an `Imm20J` is 0 (R31, R51). -/
@[simp] theorem immJOf_bit0 (w : Word) : (immJOf w).getLsbD 0 = false := by
  rw [getLsbD_immJOf w 0 (by omega)]; rfl

/-! ### Each field of a packed word -/

@[simp] theorem majorOf_packU (imm rd m) : majorOf (packU imm rd m) = m := by
  apply BitVec.eq_of_getLsbD_eq; intro i hi; simp [majorOf, getLsbD_packU, hi]

@[simp] theorem rdOf_packU (imm rd m) : rdOf (packU imm rd m) = rd := by
  apply BitVec.eq_of_getLsbD_eq; intro i hi
  simp [rdOf, getLsbD_packU, hi]; intro h; omega

@[simp] theorem immUOf_packU (imm rd m) : immUOf (packU imm rd m) = imm := by
  apply BitVec.eq_of_getLsbD_eq; intro i hi
  simp [immUOf, getLsbD_packU, hi, show ¬ 12 + i < 7 by omega]

@[simp] theorem majorOf_packR (f7 rs2 rs1 f3 rd m) : majorOf (packR f7 rs2 rs1 f3 rd m) = m := by
  apply BitVec.eq_of_getLsbD_eq; intro i hi; simp [majorOf, getLsbD_packR, hi]

@[simp] theorem rdOf_packR (f7 rs2 rs1 f3 rd m) : rdOf (packR f7 rs2 rs1 f3 rd m) = rd := by
  apply BitVec.eq_of_getLsbD_eq; intro i hi
  simp [rdOf, getLsbD_packR, hi, show 7 + i < 12 by omega]

@[simp] theorem funct3Of_packR (f7 rs2 rs1 f3 rd m) : funct3Of (packR f7 rs2 rs1 f3 rd m) = f3 := by
  apply BitVec.eq_of_getLsbD_eq; intro i hi
  simp [funct3Of, getLsbD_packR, hi, show ¬ 12 + i < 7 by omega, show 12 + i < 15 by omega]

@[simp] theorem rs1Of_packR (f7 rs2 rs1 f3 rd m) : rs1Of (packR f7 rs2 rs1 f3 rd m) = rs1 := by
  apply BitVec.eq_of_getLsbD_eq; intro i hi
  simp [rs1Of, getLsbD_packR, hi, show ¬ 15 + i < 7 by omega, show ¬ 15 + i < 12 by omega, show 15 + i < 20 by omega]

@[simp] theorem rs2Of_packR (f7 rs2 rs1 f3 rd m) : rs2Of (packR f7 rs2 rs1 f3 rd m) = rs2 := by
  apply BitVec.eq_of_getLsbD_eq; intro i hi
  simp [rs2Of, getLsbD_packR, hi, show ¬ 20 + i < 7 by omega, show ¬ 20 + i < 12 by omega, show ¬ 20 + i < 15 by omega,
    show 20 + i < 25 by omega]

@[simp] theorem shamtOf_packR (f7 rs2 rs1 f3 rd m) : shamtOf (packR f7 rs2 rs1 f3 rd m) = rs2 :=
  rs2Of_packR f7 rs2 rs1 f3 rd m

@[simp] theorem funct7Of_packR (f7 rs2 rs1 f3 rd m) : funct7Of (packR f7 rs2 rs1 f3 rd m) = f7 := by
  apply BitVec.eq_of_getLsbD_eq; intro i hi
  simp [funct7Of, getLsbD_packR, hi, show ¬ 25 + i < 7 by omega, show ¬ 25 + i < 12 by omega,
    show ¬ 25 + i < 15 by omega, show ¬ 25 + i < 20 by omega]

@[simp] theorem majorOf_packI (imm rs1 f3 rd m) : majorOf (packI imm rs1 f3 rd m) = m := by
  apply BitVec.eq_of_getLsbD_eq; intro i hi; simp [majorOf, getLsbD_packI, hi]

@[simp] theorem rdOf_packI (imm rs1 f3 rd m) : rdOf (packI imm rs1 f3 rd m) = rd := by
  apply BitVec.eq_of_getLsbD_eq; intro i hi
  simp [rdOf, getLsbD_packI, hi, show 7 + i < 12 by omega]

@[simp] theorem funct3Of_packI (imm rs1 f3 rd m) : funct3Of (packI imm rs1 f3 rd m) = f3 := by
  apply BitVec.eq_of_getLsbD_eq; intro i hi
  simp [funct3Of, getLsbD_packI, hi, show ¬ 12 + i < 7 by omega, show 12 + i < 15 by omega]

@[simp] theorem rs1Of_packI (imm rs1 f3 rd m) : rs1Of (packI imm rs1 f3 rd m) = rs1 := by
  apply BitVec.eq_of_getLsbD_eq; intro i hi
  simp [rs1Of, getLsbD_packI, hi, show ¬ 15 + i < 7 by omega, show ¬ 15 + i < 12 by omega, show 15 + i < 20 by omega]

@[simp] theorem immIOf_packI (imm rs1 f3 rd m) : immIOf (packI imm rs1 f3 rd m) = imm := by
  apply BitVec.eq_of_getLsbD_eq; intro i hi
  simp [immIOf, getLsbD_packI, hi, show ¬ 20 + i < 7 by omega, show ¬ 20 + i < 12 by omega, show ¬ 20 + i < 15 by omega]

@[simp] theorem majorOf_packS (imm rs2 rs1 f3 m) : majorOf (packS imm rs2 rs1 f3 m) = m := by
  apply BitVec.eq_of_getLsbD_eq; intro i hi; simp [majorOf, getLsbD_packS, hi]

@[simp] theorem funct3Of_packS (imm rs2 rs1 f3 m) : funct3Of (packS imm rs2 rs1 f3 m) = f3 := by
  apply BitVec.eq_of_getLsbD_eq; intro i hi
  simp [funct3Of, getLsbD_packS, hi, show ¬ 12 + i < 7 by omega, show 12 + i < 15 by omega]

@[simp] theorem rs1Of_packS (imm rs2 rs1 f3 m) : rs1Of (packS imm rs2 rs1 f3 m) = rs1 := by
  apply BitVec.eq_of_getLsbD_eq; intro i hi
  simp [rs1Of, getLsbD_packS, hi, show ¬ 15 + i < 7 by omega, show ¬ 15 + i < 12 by omega, show 15 + i < 20 by omega]

@[simp] theorem rs2Of_packS (imm rs2 rs1 f3 m) : rs2Of (packS imm rs2 rs1 f3 m) = rs2 := by
  apply BitVec.eq_of_getLsbD_eq; intro i hi
  simp [rs2Of, getLsbD_packS, hi, show ¬ 20 + i < 7 by omega, show ¬ 20 + i < 12 by omega, show ¬ 20 + i < 15 by omega,
    show 20 + i < 25 by omega]

@[simp] theorem immSOf_packS (imm rs2 rs1 f3 m) : immSOf (packS imm rs2 rs1 f3 m) = imm := by
  apply BitVec.eq_of_getLsbD_eq; intro i hi
  simp only [getLsbD_immSOf, getLsbD_packS]
  split_ifs <;> first | omega | simp [hi]

@[simp] theorem majorOf_packB (imm rs2 rs1 f3 m) : majorOf (packB imm rs2 rs1 f3 m) = m := by
  apply BitVec.eq_of_getLsbD_eq; intro i hi; simp [majorOf, getLsbD_packB, hi]

@[simp] theorem funct3Of_packB (imm rs2 rs1 f3 m) : funct3Of (packB imm rs2 rs1 f3 m) = f3 := by
  apply BitVec.eq_of_getLsbD_eq; intro i hi
  simp [funct3Of, getLsbD_packB, hi, show ¬ 12 + i < 7 by omega, show ¬ 12 + i < 8 by omega, show 12 + i < 15 by omega]

@[simp] theorem rs1Of_packB (imm rs2 rs1 f3 m) : rs1Of (packB imm rs2 rs1 f3 m) = rs1 := by
  apply BitVec.eq_of_getLsbD_eq; intro i hi
  simp [rs1Of, getLsbD_packB, hi, show ¬ 15 + i < 7 by omega, show ¬ 15 + i < 8 by omega, show ¬ 15 + i < 12 by omega,
    show 15 + i < 20 by omega]

@[simp] theorem rs2Of_packB (imm rs2 rs1 f3 m) : rs2Of (packB imm rs2 rs1 f3 m) = rs2 := by
  apply BitVec.eq_of_getLsbD_eq; intro i hi
  simp [rs2Of, getLsbD_packB, hi, show ¬ 20 + i < 7 by omega, show ¬ 20 + i < 8 by omega, show ¬ 20 + i < 12 by omega,
    show ¬ 20 + i < 15 by omega, show 20 + i < 25 by omega]

/-- The B row keeps an even displacement. -/
theorem immBOf_packB (imm rs2 rs1 f3 m) (h : imm.getLsbD 0 = false) : immBOf (packB imm rs2 rs1 f3 m) = imm := by
  apply BitVec.eq_of_getLsbD_eq; intro i hi
  rw [getLsbD_immBOf _ i hi]
  simp only [getLsbD_packB]
  interval_cases i <;> simp [h, -BitVec.getLsbD_eq_getElem]

@[simp] theorem majorOf_packJ (imm rd m) : majorOf (packJ imm rd m) = m := by
  apply BitVec.eq_of_getLsbD_eq; intro i hi; simp [majorOf, getLsbD_packJ, hi]

@[simp] theorem rdOf_packJ (imm rd m) : rdOf (packJ imm rd m) = rd := by
  apply BitVec.eq_of_getLsbD_eq; intro i hi
  simp [rdOf, getLsbD_packJ, hi, show 7 + i < 12 by omega]

/-- The J row keeps an even displacement. -/
theorem immJOf_packJ (imm rd m) (h : imm.getLsbD 0 = false) : immJOf (packJ imm rd m) = imm := by
  apply BitVec.eq_of_getLsbD_eq; intro i hi
  rw [getLsbD_immJOf _ i hi]
  simp only [getLsbD_packJ]
  interval_cases i <;> simp [h, -BitVec.getLsbD_eq_getElem]

@[simp] theorem majorOf_packSystem (key rest m) : majorOf (packSystem key rest m) = m := by
  apply BitVec.eq_of_getLsbD_eq; intro i hi; simp [majorOf, getLsbD_packSystem, hi]

@[simp] theorem systemKeyOf_packSystem (key rest m) : systemKeyOf (packSystem key rest m) = key := by
  apply BitVec.eq_of_getLsbD_eq; intro i hi
  simp [systemKeyOf, getLsbD_packSystem, hi, show ¬ 20 + i < 7 by omega]

@[simp] theorem systemRestOf_packSystem (key rest m) : systemRestOf (packSystem key rest m) = rest := by
  apply BitVec.eq_of_getLsbD_eq; intro i hi
  simp [systemRestOf, getLsbD_packSystem, hi, show 7 + i < 20 by omega]

@[simp] theorem majorOf_packFence (rest m) : majorOf (packFence rest m) = m := by
  apply BitVec.eq_of_getLsbD_eq; intro i hi; simp [majorOf, getLsbD_packFence, hi]

@[simp] theorem fenceRestOf_packFence (rest m) : fenceRestOf (packFence rest m) = rest := by
  apply BitVec.eq_of_getLsbD_eq; intro i hi
  simp [fenceRestOf, getLsbD_packFence, hi]

/-! ### A word packed again from its own fields -/

theorem packU_fields (w : Word) : packU (immUOf w) (rdOf w) (majorOf w) = w := by
  apply BitVec.eq_of_getLsbD_eq; intro i hi
  simp only [getLsbD_packU, immUOf, rdOf, majorOf, BitVec.getLsbD_extractLsb']
  interval_cases i <;> simp

theorem packR_fields (w : Word) : packR (funct7Of w) (rs2Of w) (rs1Of w) (funct3Of w) (rdOf w) (majorOf w) = w := by
  apply BitVec.eq_of_getLsbD_eq; intro i hi
  simp only [getLsbD_packR, funct7Of, rs2Of, rs1Of, funct3Of, rdOf, majorOf, BitVec.getLsbD_extractLsb']
  interval_cases i <;> simp

theorem packI_fields (w : Word) : packI (immIOf w) (rs1Of w) (funct3Of w) (rdOf w) (majorOf w) = w := by
  apply BitVec.eq_of_getLsbD_eq; intro i hi
  simp only [getLsbD_packI, immIOf, rs1Of, funct3Of, rdOf, majorOf, BitVec.getLsbD_extractLsb']
  interval_cases i <;> simp

theorem packS_fields (w : Word) : packS (immSOf w) (rs2Of w) (rs1Of w) (funct3Of w) (majorOf w) = w := by
  apply BitVec.eq_of_getLsbD_eq; intro i hi
  simp only [getLsbD_packS, getLsbD_immSOf, rs2Of, rs1Of, funct3Of, majorOf, BitVec.getLsbD_extractLsb']
  interval_cases i <;> simp

theorem packB_fields (w : Word) : packB (immBOf w) (rs2Of w) (rs1Of w) (funct3Of w) (majorOf w) = w := by
  apply BitVec.eq_of_getLsbD_eq; intro i hi
  simp only [getLsbD_packB, rs2Of, rs1Of, funct3Of, majorOf, BitVec.getLsbD_extractLsb']
  interval_cases i <;> simp [getLsbD_immBOf, -BitVec.getLsbD_eq_getElem]

theorem packJ_fields (w : Word) : packJ (immJOf w) (rdOf w) (majorOf w) = w := by
  apply BitVec.eq_of_getLsbD_eq; intro i hi
  simp only [getLsbD_packJ, rdOf, majorOf, BitVec.getLsbD_extractLsb']
  interval_cases i <;> simp [getLsbD_immJOf, -BitVec.getLsbD_eq_getElem]

theorem packSystem_fields (w : Word) : packSystem (systemKeyOf w) (systemRestOf w) (majorOf w) = w := by
  apply BitVec.eq_of_getLsbD_eq; intro i hi
  simp only [getLsbD_packSystem, systemKeyOf, systemRestOf, majorOf, BitVec.getLsbD_extractLsb']
  interval_cases i <;> simp

theorem packFence_fields (w : Word) : packFence (fenceRestOf w) (majorOf w) = w := by
  apply BitVec.eq_of_getLsbD_eq; intro i hi
  simp only [getLsbD_packFence, fenceRestOf, majorOf, BitVec.getLsbD_extractLsb']
  interval_cases i <;> simp

/-! ### Code units and bytes -/

theorem getLsbD_wordOfUnits (cu0 cu1 : CodeUnit) (i : Nat) :
    (wordOfUnits cu0 cu1).getLsbD i = if i < 16 then cu0.getLsbD i else cu1.getLsbD (i - 16) := by
  show @BitVec.getLsbD (16 + 16) (cu1 ++ cu0) i = _
  simp only [BitVec.getLsbD_append]

@[simp] theorem lowUnit_wordOfUnits (cu0 cu1 : CodeUnit) : lowUnit (wordOfUnits cu0 cu1) = cu0 := by
  apply BitVec.eq_of_getLsbD_eq; intro i hi
  simp [lowUnit, getLsbD_wordOfUnits, hi]

@[simp] theorem highUnit_wordOfUnits (cu0 cu1 : CodeUnit) : highUnit (wordOfUnits cu0 cu1) = cu1 := by
  apply BitVec.eq_of_getLsbD_eq; intro i hi
  simp [highUnit, getLsbD_wordOfUnits, hi]

@[simp] theorem wordOfUnits_units (w : Word) : wordOfUnits (lowUnit w) (highUnit w) = w := by
  apply BitVec.eq_of_getLsbD_eq; intro i hi
  simp only [getLsbD_wordOfUnits, lowUnit, highUnit, BitVec.getLsbD_extractLsb']
  interval_cases i <;> simp

/-- The length class of a word is read from its major opcode. -/
theorem lowUnit_low2 (w : Word) : (lowUnit w).extractLsb' 0 2 = (majorOf w).extractLsb' 0 2 := by
  apply BitVec.eq_of_getLsbD_eq; intro i hi
  simp [lowUnit, majorOf, hi]

theorem lowUnit_next3 (w : Word) : (lowUnit w).extractLsb' 2 3 = (majorOf w).extractLsb' 2 3 := by
  apply BitVec.eq_of_getLsbD_eq; intro i hi
  simp [lowUnit, majorOf, hi]

/-- The length class of a word, by its major opcode (R37, R60). -/
theorem lenClass_lowUnit (w : Word) :
    lenClass (lowUnit w) =
      if (majorOf w).extractLsb' 0 2 ≠ 0b11#2 then .compressed16
      else if (majorOf w).extractLsb' 2 3 = 0b111#3 then .wide48Plus else .len32 := by
  simp only [lenClass, lowUnit_low2, lowUnit_next3]

theorem getLsbD_unit (lo hi : Byte) (i : Nat) :
    ((hi ++ lo : BitVec (8 + 8)) : CodeUnit).getLsbD i = if i < 8 then lo.getLsbD i else hi.getLsbD (i - 8) := by
  show @BitVec.getLsbD (8 + 8) (hi ++ lo) i = _
  simp only [BitVec.getLsbD_append]

/-- The bytes of a word assemble into its two units (R27, R28). -/
theorem unitAt_bytesOfWord (w : Word) :
    unitAt (bytesOfWord w) 0 = some (lowUnit w) ∧ unitAt (bytesOfWord w) 1 = some (highUnit w) := by
  constructor <;>
  · simp only [unitAt, bytesOfWord, Nat.mul_zero, Nat.mul_one, List.drop_zero, List.drop_succ_cons, Option.some.injEq]
    apply BitVec.eq_of_getLsbD_eq; intro i hi
    rw [getLsbD_unit]
    simp only [lowUnit, highUnit, BitVec.getLsbD_extractLsb']
    interval_cases i <;> simp

end Sys2Proof
end

