-- ==== Sys2Proof/Laws/Decode.lean ====
section
/-! SUPPORT. What the decoder answers, case by case, and the masks of the opcode table read as fields. -/

namespace Sys2Proof

/-! ### The four ways out of `decodeUnits` (R39) -/

@[simp] theorem decodeUnits_none (u1 : Option CodeUnit) : decodeUnits none u1 = .reject .noUnit0 := rfl

theorem decodeUnits_compressed {cu0 : CodeUnit} (h : lenClass cu0 = .compressed16) (u1 : Option CodeUnit) :
    decodeUnits (some cu0) u1 = .reject (.compressed16 cu0) := by simp [decodeUnits, h]

theorem decodeUnits_wide {cu0 : CodeUnit} (h : lenClass cu0 = .wide48Plus) (u1 : Option CodeUnit) :
    decodeUnits (some cu0) u1 = .reject (.wide48Plus cu0) := by simp [decodeUnits, h]

theorem decodeUnits_short {cu0 : CodeUnit} (h : lenClass cu0 = .len32) :
    decodeUnits (some cu0) none = .reject (.noUnit1 cu0) := by simp [decodeUnits, h]

theorem decodeUnits_whole {cu0 : CodeUnit} (h : lenClass cu0 = .len32) (cu1 : CodeUnit) :
    decodeUnits (some cu0) (some cu1) = decodeWhole (wordOfUnits cu0 cu1) := by simp [decodeUnits, h]

/-- A whole word of the 32-bit class, presented as its two units. -/
theorem decodeUnits_word {w : Word} (h : lenClass (lowUnit w) = .len32) :
    decodeUnits (some (lowUnit w)) (some (highUnit w)) = decodeWhole w := by
  rw [decodeUnits_whole h, wordOfUnits_units]

/-- A byte stream that begins with the bytes of a word decodes the word's units, whatever follows. -/
theorem decodeBytes_word (w : Word) : decodeBytes (bytesOfWord w) = decodeUnits (some (lowUnit w)) (some (highUnit w)) := by
  rw [decodeBytes, (unitAt_bytesOfWord w).1, (unitAt_bytesOfWord w).2]

/-! ### Masks as fields -/

theorem getLsbD_majorOf (w : Word) (i : Nat) : (majorOf w).getLsbD i = (decide (i < 7) && w.getLsbD i) := by
  simp only [majorOf, BitVec.getLsbD_extractLsb', Nat.zero_add]

theorem getLsbD_funct3Of (w : Word) (i : Nat) : (funct3Of w).getLsbD i = (decide (i < 3) && w.getLsbD (12 + i)) := by
  simp only [funct3Of, BitVec.getLsbD_extractLsb']

theorem getLsbD_funct7Of (w : Word) (i : Nat) : (funct7Of w).getLsbD i = (decide (i < 7) && w.getLsbD (25 + i)) := by
  simp only [funct7Of, BitVec.getLsbD_extractLsb']

theorem getLsbD_systemKeyOf (w : Word) (i : Nat) :
    (systemKeyOf w).getLsbD i = (decide (i < 12) && w.getLsbD (20 + i)) := by
  simp only [systemKeyOf, BitVec.getLsbD_extractLsb']

theorem eq_of_bits {n : Nat} {x y : BitVec n} (h : ∀ i < n, x.getLsbD i = y.getLsbD i) : x = y :=
  BitVec.eq_of_getLsbD_eq h

theorem and_eq_bits {w mask p : Word} (h : w &&& mask = p) (i : Nat) (hm : mask.getLsbD i = true) :
    w.getLsbD i = p.getLsbD i := by
  rw [← h, BitVec.getLsbD_and, hm, Bool.and_true]

/-- The mask of a row with no sub-key reads the major opcode. -/
theorem and_major_iff (w p : Word) (hp : p &&& 0x0000007f#32 = p) :
    w &&& 0x0000007f#32 = p ↔ majorOf w = majorOf p := by
  constructor
  · intro h
    apply eq_of_bits; intro i hi
    rw [getLsbD_majorOf, getLsbD_majorOf]
    rw [and_eq_bits h i (by interval_cases i <;> rfl)]
  · intro h
    rw [← hp]
    apply eq_of_bits; intro i hi
    have hb := congrArg (·.getLsbD i) h
    simp only [getLsbD_majorOf] at hb
    rw [BitVec.getLsbD_and, BitVec.getLsbD_and]
    by_cases hlt : i < 7
    · simp only [hlt, decide_true, Bool.true_and] at hb
      rw [hb]
    · have hm : (0x0000007f#32).getLsbD i = false := by interval_cases i <;> first | omega | rfl
      rw [hm, Bool.and_false, Bool.and_false]

/-- The mask of a row with sub-key funct3 reads the major opcode and funct3. -/
theorem and_funct3_iff (w p : Word) (hp : p &&& 0x0000707f#32 = p) :
    w &&& 0x0000707f#32 = p ↔ majorOf w = majorOf p ∧ funct3Of w = funct3Of p := by
  constructor
  · intro h
    constructor
    · apply eq_of_bits; intro i hi
      rw [getLsbD_majorOf, getLsbD_majorOf, and_eq_bits h i (by interval_cases i <;> rfl)]
    · apply eq_of_bits; intro i hi
      rw [getLsbD_funct3Of, getLsbD_funct3Of, and_eq_bits h (12 + i) (by interval_cases i <;> rfl)]
  · intro ⟨h1, h2⟩
    rw [← hp]
    apply eq_of_bits; intro i hi
    have hb1 := congrArg (·.getLsbD i) h1
    have hb2 := congrArg (·.getLsbD (i - 12)) h2
    simp only [getLsbD_majorOf, getLsbD_funct3Of] at hb1 hb2
    rw [BitVec.getLsbD_and, BitVec.getLsbD_and]
    by_cases hlt : i < 7
    · simp only [hlt, decide_true, Bool.true_and] at hb1
      rw [hb1]
    · by_cases hmid : 12 ≤ i ∧ i < 15
      · simp only [show i - 12 < 3 by omega, show 12 + (i - 12) = i by omega, decide_true, Bool.true_and] at hb2
        rw [hb2]
      · have hm : (0x0000707f#32).getLsbD i = false := by interval_cases i <;> first | omega | rfl
        rw [hm, Bool.and_false, Bool.and_false]

/-- The mask of a row with sub-keys funct3 and funct7 reads the major opcode and both. -/
theorem and_funct7_iff (w p : Word) (hp : p &&& 0xfe00707f#32 = p) :
    w &&& 0xfe00707f#32 = p ↔ majorOf w = majorOf p ∧ funct3Of w = funct3Of p ∧ funct7Of w = funct7Of p := by
  constructor
  · intro h
    refine ⟨?_, ?_, ?_⟩
    · apply eq_of_bits; intro i hi
      rw [getLsbD_majorOf, getLsbD_majorOf, and_eq_bits h i (by interval_cases i <;> rfl)]
    · apply eq_of_bits; intro i hi
      rw [getLsbD_funct3Of, getLsbD_funct3Of, and_eq_bits h (12 + i) (by interval_cases i <;> rfl)]
    · apply eq_of_bits; intro i hi
      rw [getLsbD_funct7Of, getLsbD_funct7Of, and_eq_bits h (25 + i) (by interval_cases i <;> rfl)]
  · intro ⟨h1, h2, h3⟩
    rw [← hp]
    apply eq_of_bits; intro i hi
    have hb1 := congrArg (·.getLsbD i) h1
    have hb2 := congrArg (·.getLsbD (i - 12)) h2
    have hb3 := congrArg (·.getLsbD (i - 25)) h3
    simp only [getLsbD_majorOf, getLsbD_funct3Of, getLsbD_funct7Of] at hb1 hb2 hb3
    rw [BitVec.getLsbD_and, BitVec.getLsbD_and]
    by_cases hlt : i < 7
    · simp only [hlt, decide_true, Bool.true_and] at hb1
      rw [hb1]
    · by_cases hmid : 12 ≤ i ∧ i < 15
      · simp only [show i - 12 < 3 by omega, show 12 + (i - 12) = i by omega, decide_true, Bool.true_and] at hb2
        rw [hb2]
      · by_cases hhi : 25 ≤ i
        · simp only [show i - 25 < 7 by omega, show 25 + (i - 25) = i by omega, decide_true, Bool.true_and] at hb3
          rw [hb3]
        · have hm : (0xfe00707f#32).getLsbD i = false := by interval_cases i <;> first | omega | rfl
          rw [hm, Bool.and_false, Bool.and_false]

/-- The mask of a SYSTEM row reads the major opcode and the sub-key `w[31:20]`. -/
theorem and_system_iff (w p : Word) (hp : p &&& 0xfff0007f#32 = p) :
    w &&& 0xfff0007f#32 = p ↔ majorOf w = majorOf p ∧ systemKeyOf w = systemKeyOf p := by
  constructor
  · intro h
    constructor
    · apply eq_of_bits; intro i hi
      rw [getLsbD_majorOf, getLsbD_majorOf, and_eq_bits h i (by interval_cases i <;> rfl)]
    · apply eq_of_bits; intro i hi
      rw [getLsbD_systemKeyOf, getLsbD_systemKeyOf, and_eq_bits h (20 + i) (by interval_cases i <;> rfl)]
  · intro ⟨h1, h2⟩
    rw [← hp]
    apply eq_of_bits; intro i hi
    have hb1 := congrArg (·.getLsbD i) h1
    have hb2 := congrArg (·.getLsbD (i - 20)) h2
    simp only [getLsbD_majorOf, getLsbD_systemKeyOf] at hb1 hb2
    rw [BitVec.getLsbD_and, BitVec.getLsbD_and]
    by_cases hlt : i < 7
    · simp only [hlt, decide_true, Bool.true_and] at hb1
      rw [hb1]
    · by_cases hhi : 20 ≤ i
      · simp only [show i - 20 < 12 by omega, show 20 + (i - 20) = i by omega, decide_true, Bool.true_and] at hb2
        rw [hb2]
      · have hm : (0xfff0007f#32).getLsbD i = false := by interval_cases i <;> first | omega | rfl
        rw [hm, Bool.and_false, Bool.and_false]

end Sys2Proof
end

