-- ==== Sys2Proof/Laws/Groups.lean ====
section
/-! SUPPORT. What each group of the dispatcher answers: the instruction's own word is the word decoded, and the instruction
is well formed. One lemma per group. -/

namespace Sys2Proof

variable {w : Word} {i : Instr}

theorem encode_decodeBranch (hm : majorOf w = 0b1100011#7) (h : decodeBranch w = some i) :
    encode i = w ∧ i.WellFormed = true := by
  have hp := packB_fields w
  have h0 := immBOf_bit0 w
  rw [hm] at hp
  unfold decodeBranch at h
  split_ifs at h with h1 h2 h3 h4 h5 h6 <;> cases h
  · rw [h1] at hp; exact ⟨hp, by simp only [Instr.WellFormed, h0, Bool.not_false]⟩
  · rw [h2] at hp; exact ⟨hp, by simp only [Instr.WellFormed, h0, Bool.not_false]⟩
  · rw [h3] at hp; exact ⟨hp, by simp only [Instr.WellFormed, h0, Bool.not_false]⟩
  · rw [h4] at hp; exact ⟨hp, by simp only [Instr.WellFormed, h0, Bool.not_false]⟩
  · rw [h5] at hp; exact ⟨hp, by simp only [Instr.WellFormed, h0, Bool.not_false]⟩
  · rw [h6] at hp; exact ⟨hp, by simp only [Instr.WellFormed, h0, Bool.not_false]⟩

theorem encode_decodeLoad (hm : majorOf w = 0b0000011#7) (h : decodeLoad w = some i) :
    encode i = w ∧ i.WellFormed = true := by
  have hp := packI_fields w
  rw [hm] at hp
  unfold decodeLoad at h
  split_ifs at h with h1 h2 h3 h4 h5 <;> cases h
  · rw [h1] at hp; exact ⟨hp, rfl⟩
  · rw [h2] at hp; exact ⟨hp, rfl⟩
  · rw [h3] at hp; exact ⟨hp, rfl⟩
  · rw [h4] at hp; exact ⟨hp, rfl⟩
  · rw [h5] at hp; exact ⟨hp, rfl⟩

theorem encode_decodeStore (hm : majorOf w = 0b0100011#7) (h : decodeStore w = some i) :
    encode i = w ∧ i.WellFormed = true := by
  have hp := packS_fields w
  rw [hm] at hp
  unfold decodeStore at h
  split_ifs at h with h1 h2 h3 <;> cases h
  · rw [h1] at hp; exact ⟨hp, rfl⟩
  · rw [h2] at hp; exact ⟨hp, rfl⟩
  · rw [h3] at hp; exact ⟨hp, rfl⟩

/-- A funct3 that is none of the seven others is the eighth. -/
theorem funct3_eq_101 (f : BitVec 3) : f ≠ 0b000#3 → f ≠ 0b010#3 → f ≠ 0b011#3 → f ≠ 0b100#3 → f ≠ 0b110#3 →
    f ≠ 0b111#3 → f ≠ 0b001#3 → f = 0b101#3 := by
  bv_omega

theorem funct3_eq_111 (f : BitVec 3) : f ≠ 0b000#3 → f ≠ 0b101#3 → f ≠ 0b001#3 → f ≠ 0b010#3 → f ≠ 0b011#3 →
    f ≠ 0b100#3 → f ≠ 0b110#3 → f = 0b111#3 := by
  bv_omega

theorem encode_decodeAluImm (hm : majorOf w = 0b0010011#7) (h : decodeAluImm w = some i) :
    encode i = w ∧ i.WellFormed = true := by
  have hp := packI_fields w
  have hq : packR (funct7Of w) (shamtOf w) (rs1Of w) (funct3Of w) (rdOf w) (majorOf w) = w := packR_fields w
  rw [hm] at hp hq
  unfold decodeAluImm at h
  split_ifs at h with h0 h2 h3 h4 h6 h7 h1 h8 h9 <;> cases h
  · rw [h0] at hp; exact ⟨hp, rfl⟩
  · rw [h2] at hp; exact ⟨hp, rfl⟩
  · rw [h3] at hp; exact ⟨hp, rfl⟩
  · rw [h4] at hp; exact ⟨hp, rfl⟩
  · rw [h6] at hp; exact ⟨hp, rfl⟩
  · rw [h7] at hp; exact ⟨hp, rfl⟩
  · rw [h1] at hq; exact ⟨hq, rfl⟩
  · rw [h8, funct3_eq_101 _ h0 h2 h3 h4 h6 h7 h1] at hq; exact ⟨hq, rfl⟩
  · rw [h9, funct3_eq_101 _ h0 h2 h3 h4 h6 h7 h1] at hq; exact ⟨hq, rfl⟩

theorem encode_decodeAluReg (hm : majorOf w = 0b0110011#7) (h : decodeAluReg w = some i) :
    encode i = w ∧ i.WellFormed = true := by
  have hq := packR_fields w
  rw [hm] at hq
  unfold decodeAluReg at h
  split_ifs at h with h0 ha hb h5 hc hd h1 h2 h3 h4 h6 <;> cases h
  · rw [h0, ha] at hq; exact ⟨hq, rfl⟩
  · rw [h0, hb] at hq; exact ⟨hq, rfl⟩
  · rw [h5, hc] at hq; exact ⟨hq, rfl⟩
  · rw [h5, hd] at hq; exact ⟨hq, rfl⟩
  · rw [h1] at hq; exact ⟨hq, rfl⟩
  · rw [h2] at hq; exact ⟨hq, rfl⟩
  · rw [h3] at hq; exact ⟨hq, rfl⟩
  · rw [h4] at hq; exact ⟨hq, rfl⟩
  · rw [h6] at hq; exact ⟨hq, rfl⟩
  · rw [funct3_eq_111 _ h0 h5 h1 h2 h3 h4 h6] at hq; exact ⟨hq, rfl⟩

theorem encode_decodeSystem (hm : majorOf w = 0b1110011#7) (h : decodeSystem w = some i) :
    encode i = w ∧ i.WellFormed = true := by
  have hp := packSystem_fields w
  rw [hm] at hp
  unfold decodeSystem at h
  split_ifs at h with h0 h1 <;> cases h
  · rw [h0] at hp; exact ⟨hp, rfl⟩
  · rw [h1] at hp; exact ⟨hp, rfl⟩

end Sys2Proof
end

