-- ==== Sys2Proof/Laws/State.lean ====
section
/-! SUPPORT. One lemma per field per update of State, and what each shared operation writes. -/

namespace Sys2Proof.Machine

variable (s : State) (p : PortSample) (r : ResultReg)

@[simp] theorem latch_result : (s.latch r).result = r := rfl
@[simp] theorem latch_inputs : (s.latch r).inputs = s.inputs := rfl
@[simp] theorem latch_latch (r' : ResultReg) : (s.latch r).latch r' = s.latch r' := rfl
@[simp] theorem latch_ports : (s.latch r).ports = s.ports := rfl
@[simp] theorem tick_result : s.tick.result = s.result := rfl
@[simp] theorem tick_inputs : s.tick.inputs = s.inputs.tail := rfl
@[simp] theorem tick_latch : (s.latch r).tick = s.tick.latch r := rfl
@[simp] theorem drive_result : (s.drive p).result = s.result := rfl
@[simp] theorem drive_inputs : (s.drive p).inputs = p :: s.inputs := rfl
@[simp] theorem drive_ports : (s.drive p).ports = p := rfl
@[simp] theorem drive_tick : (s.drive p).tick = s := rfl
@[simp] theorem resetRegister_result : s.resetRegister.result = .reset := rfl
@[simp] theorem resetRegister_inputs : s.resetRegister.inputs = s.inputs := rfl
@[simp] theorem latchReject_result (e : Reject) : (s.latchReject e).result = rejectResult e := rfl
@[simp] theorem latchReject_inputs (e : Reject) : (s.latchReject e).inputs = s.inputs := rfl

section Ok
variable (w : Word) (opc : Opcode) (l : Layout) (wd : Bool)
@[simp] theorem latchOk_result : (s.latchOk w opc l wd).result = okResult w opc l wd := rfl
@[simp] theorem latchOk_inputs : (s.latchOk w opc l wd).inputs = s.inputs := rfl
@[simp] theorem okResult_status : (okResult w opc l wd).status = 1#3 := rfl
@[simp] theorem okResult_ureason : (okResult w opc l wd).ureason = 0#2 := rfl
@[simp] theorem okResult_units : (okResult w opc l wd).units = 2#2 := rfl
@[simp] theorem okResult_word : (okResult w opc l wd).word = w := rfl
@[simp] theorem okResult_opc : (okResult w opc l wd).opc = opc.code := rfl
@[simp] theorem okResult_spec0 : (okResult w opc l wd).spec0 = l.spec0.code := rfl
@[simp] theorem okResult_spec1 : (okResult w opc l wd).spec1 = l.spec1.code := rfl
@[simp] theorem okResult_spec2 : (okResult w opc l wd).spec2 = l.spec2.code := rfl
@[simp] theorem okResult_wd : (okResult w opc l wd).wd = wd := rfl
end Ok

section Error
variable (kind : Status) (reason : UReason) (n : BitVec 2) (w : Word)
@[simp] theorem latchError_result : (s.latchError kind reason n w).result = errorResult kind reason n w := rfl
@[simp] theorem latchError_inputs : (s.latchError kind reason n w).inputs = s.inputs := rfl
@[simp] theorem errorResult_status : (errorResult kind reason n w).status = kind.code := rfl
@[simp] theorem errorResult_ureason : (errorResult kind reason n w).ureason = reason.code := rfl
@[simp] theorem errorResult_units : (errorResult kind reason n w).units = n := rfl
@[simp] theorem errorResult_word : (errorResult kind reason n w).word = w := rfl
@[simp] theorem errorResult_opc : (errorResult kind reason n w).opc = 0#6 := rfl
@[simp] theorem errorResult_spec0 : (errorResult kind reason n w).spec0 = 0#4 := rfl
@[simp] theorem errorResult_spec1 : (errorResult kind reason n w).spec1 = 0#4 := rfl
@[simp] theorem errorResult_spec2 : (errorResult kind reason n w).spec2 = 0#4 := rfl
@[simp] theorem errorResult_wd : (errorResult kind reason n w).wd = false := rfl
end Error

/-! ### Presented units -/

@[simp] theorem decodeEdge_rst (u0 u1 : Option CodeUnit) : (PortSample.decodeEdge u0 u1).rst = false := rfl
@[simp] theorem decodeEdge_req (u0 u1 : Option CodeUnit) : (PortSample.decodeEdge u0 u1).req = true := rfl

@[simp] theorem decodeEdge_unit0 (u0 u1 : Option CodeUnit) : (PortSample.decodeEdge u0 u1).unit0 = u0 := by
  cases u0 <;> rfl

@[simp] theorem decodeEdge_unit1 (u0 u1 : Option CodeUnit) : (PortSample.decodeEdge u0 u1).unit1 = u1 := by
  cases u1 <;> rfl

/-! ### The spec codes name their tags -/

@[simp] theorem ofCode_code (spec : OperandSpec) : OperandSpec.ofCode spec.code = some spec := by
  cases spec <;> rfl

end Sys2Proof.Machine
end

