-- ==== Sys2Proof/Laws/Operands.lean ====
section
/-! SUPPORT. What the operand lanes, the operand list and the text of an OK result are, in terms of its layout. -/

namespace Sys2Proof.Machine

variable (w : Word) (opc : Opcode) (l : Layout) (wd : Bool)

@[simp] theorem resolveCode_code (spec : OperandSpec) : resolveCode w spec.code = resolve w spec := by
  simp [resolveCode]

@[simp] theorem specCode_eq_zero (spec : OperandSpec) : spec.code = 0#4 ↔ spec = .nothing := by
  cases spec <;> decide

@[simp] theorem resolve_eq_none (spec : OperandSpec) : resolve w spec = none ↔ spec = .nothing := by
  cases spec <;> simp [resolve]

/-- The visible count of an OK result, by its layout (R56). -/
theorem okResult_nOps :
    (okResult w opc l wd).nOps =
      if l.spec0 = .nothing then 0 else if l.spec1 = .nothing then 1 else if l.spec2 = .nothing then 2 else 3 := by
  simp [ResultReg.nOps]

/-- Lane 0 of an OK result: its spec's operand, empty for Nothing. -/
theorem okResult_lane0 : (okResult w opc l wd).lane0 = .ofOption (resolve w l.spec0) := by
  rw [ResultReg.lane0, okResult_nOps]
  by_cases h0 : l.spec0 = .nothing
  · simp [h0, resolve, Lane.ofOption]
  · by_cases h1 : l.spec1 = .nothing <;> by_cases h2 : l.spec2 = .nothing <;> simp [h0, h1, h2]

/-- Lane 1 of an OK result whose layout is in prefix form. -/
theorem okResult_lane1 (h01 : l.spec0 = .nothing → l.spec1 = .nothing) :
    (okResult w opc l wd).lane1 = .ofOption (resolve w l.spec1) := by
  rw [ResultReg.lane1, okResult_nOps]
  by_cases h1 : l.spec1 = .nothing
  · by_cases h0 : l.spec0 = .nothing <;> simp [h0, h1, resolve, Lane.ofOption]
  · have h0 : l.spec0 ≠ .nothing := fun h => h1 (h01 h)
    by_cases h2 : l.spec2 = .nothing <;> simp [h0, h1, h2]

/-- Lane 2 of an OK result whose layout is in prefix form. -/
theorem okResult_lane2 (h01 : l.spec0 = .nothing → l.spec1 = .nothing) (h12 : l.spec1 = .nothing → l.spec2 = .nothing) :
    (okResult w opc l wd).lane2 = .ofOption (resolve w l.spec2) := by
  rw [ResultReg.lane2, okResult_nOps]
  by_cases h2 : l.spec2 = .nothing
  · by_cases h0 : l.spec0 = .nothing <;> by_cases h1 : l.spec1 = .nothing <;>
      simp [h0, h1, h2, resolve, Lane.ofOption]
  · have h1 : l.spec1 ≠ .nothing := fun h => h2 (h12 h)
    have h0 : l.spec0 ≠ .nothing := fun h => h1 (h01 h)
    simp [h0, h1, h2]

@[simp] theorem okResult_operands :
    (okResult w opc l wd).operands = [resolve w l.spec0, resolve w l.spec1, resolve w l.spec2] := by
  simp [ResultReg.operands]

@[simp] theorem okResult_specsAssigned : (okResult w opc l wd).specsAssigned = true := by
  simp [ResultReg.specsAssigned]

/-- A tag that decodes is read back from its code. -/
theorem decodedOpcodeOf_code (h : opc ∈ decodedOpcodes) : decodedOpcodeOf opc.code = some opc := by
  revert h
  cases opc <;> decide

/-- The text of an OK result is the text of its tag and its resolved operands. -/
theorem render_okResult (h : opc ∈ decodedOpcodes) :
    render (okResult w opc l wd) = renderOps opc [resolve w l.spec0, resolve w l.spec1, resolve w l.spec2] := by
  simp [render, decodedOpcodeOf_code opc h, Status.code]

end Sys2Proof.Machine
end

