-- ==== Sys2Proof/Laws/PerInstr.lean ====
section
/-! SUPPORT. Statements made of every instruction as syntax, one lemma per constructor of `Instr`. -/

namespace Sys2Proof.Laws

/-- The word of an instruction is in the 32-bit length class (R38, R66). -/
def LengthClass.Statement (i : Instr) : Prop := lenClass (lowUnit (encode i)) = .len32

/-- Decoding the word of a well-formed instruction gives the instruction back. -/
def RoundTrip.Statement (i : Instr) : Prop := i.WellFormed = true → decodeWord (encode i) = some i

theorem LengthClass.lui (rd : RegIndex) (imm : BitVec 20) : LengthClass.Statement (.lui rd imm) := by
  simp [LengthClass.Statement, encode, lenClass_lowUnit]

theorem LengthClass.auipc (rd : RegIndex) (imm : BitVec 20) : LengthClass.Statement (.auipc rd imm) := by
  simp [LengthClass.Statement, encode, lenClass_lowUnit]

theorem LengthClass.jal (rd : RegIndex) (offset : BitVec 21) : LengthClass.Statement (.jal rd offset) := by
  simp [LengthClass.Statement, encode, lenClass_lowUnit]

theorem LengthClass.jalr (rd rs1 : RegIndex) (imm : BitVec 12) (funct3 : BitVec 3) : LengthClass.Statement (.jalr rd rs1 imm funct3) := by
  simp [LengthClass.Statement, encode, lenClass_lowUnit]

theorem LengthClass.beq (rs1 rs2 : RegIndex) (offset : BitVec 13) : LengthClass.Statement (.beq rs1 rs2 offset) := by
  simp [LengthClass.Statement, encode, lenClass_lowUnit]

theorem LengthClass.bne (rs1 rs2 : RegIndex) (offset : BitVec 13) : LengthClass.Statement (.bne rs1 rs2 offset) := by
  simp [LengthClass.Statement, encode, lenClass_lowUnit]

theorem LengthClass.blt (rs1 rs2 : RegIndex) (offset : BitVec 13) : LengthClass.Statement (.blt rs1 rs2 offset) := by
  simp [LengthClass.Statement, encode, lenClass_lowUnit]

theorem LengthClass.bge (rs1 rs2 : RegIndex) (offset : BitVec 13) : LengthClass.Statement (.bge rs1 rs2 offset) := by
  simp [LengthClass.Statement, encode, lenClass_lowUnit]

theorem LengthClass.bltu (rs1 rs2 : RegIndex) (offset : BitVec 13) : LengthClass.Statement (.bltu rs1 rs2 offset) := by
  simp [LengthClass.Statement, encode, lenClass_lowUnit]

theorem LengthClass.bgeu (rs1 rs2 : RegIndex) (offset : BitVec 13) : LengthClass.Statement (.bgeu rs1 rs2 offset) := by
  simp [LengthClass.Statement, encode, lenClass_lowUnit]

theorem LengthClass.lb (rd rs1 : RegIndex) (offset : BitVec 12) : LengthClass.Statement (.lb rd rs1 offset) := by
  simp [LengthClass.Statement, encode, lenClass_lowUnit]

theorem LengthClass.lh (rd rs1 : RegIndex) (offset : BitVec 12) : LengthClass.Statement (.lh rd rs1 offset) := by
  simp [LengthClass.Statement, encode, lenClass_lowUnit]

theorem LengthClass.lw (rd rs1 : RegIndex) (offset : BitVec 12) : LengthClass.Statement (.lw rd rs1 offset) := by
  simp [LengthClass.Statement, encode, lenClass_lowUnit]

theorem LengthClass.lbu (rd rs1 : RegIndex) (offset : BitVec 12) : LengthClass.Statement (.lbu rd rs1 offset) := by
  simp [LengthClass.Statement, encode, lenClass_lowUnit]

theorem LengthClass.lhu (rd rs1 : RegIndex) (offset : BitVec 12) : LengthClass.Statement (.lhu rd rs1 offset) := by
  simp [LengthClass.Statement, encode, lenClass_lowUnit]

theorem LengthClass.sb (rs2 rs1 : RegIndex) (offset : BitVec 12) : LengthClass.Statement (.sb rs2 rs1 offset) := by
  simp [LengthClass.Statement, encode, lenClass_lowUnit]

theorem LengthClass.sh (rs2 rs1 : RegIndex) (offset : BitVec 12) : LengthClass.Statement (.sh rs2 rs1 offset) := by
  simp [LengthClass.Statement, encode, lenClass_lowUnit]

theorem LengthClass.sw (rs2 rs1 : RegIndex) (offset : BitVec 12) : LengthClass.Statement (.sw rs2 rs1 offset) := by
  simp [LengthClass.Statement, encode, lenClass_lowUnit]

theorem LengthClass.addi (rd rs1 : RegIndex) (imm : BitVec 12) : LengthClass.Statement (.addi rd rs1 imm) := by
  simp [LengthClass.Statement, encode, lenClass_lowUnit]

theorem LengthClass.slti (rd rs1 : RegIndex) (imm : BitVec 12) : LengthClass.Statement (.slti rd rs1 imm) := by
  simp [LengthClass.Statement, encode, lenClass_lowUnit]

theorem LengthClass.sltiu (rd rs1 : RegIndex) (imm : BitVec 12) : LengthClass.Statement (.sltiu rd rs1 imm) := by
  simp [LengthClass.Statement, encode, lenClass_lowUnit]

theorem LengthClass.xori (rd rs1 : RegIndex) (imm : BitVec 12) : LengthClass.Statement (.xori rd rs1 imm) := by
  simp [LengthClass.Statement, encode, lenClass_lowUnit]

theorem LengthClass.ori (rd rs1 : RegIndex) (imm : BitVec 12) : LengthClass.Statement (.ori rd rs1 imm) := by
  simp [LengthClass.Statement, encode, lenClass_lowUnit]

theorem LengthClass.andi (rd rs1 : RegIndex) (imm : BitVec 12) : LengthClass.Statement (.andi rd rs1 imm) := by
  simp [LengthClass.Statement, encode, lenClass_lowUnit]

theorem LengthClass.slli (rd rs1 : RegIndex) (shamt : BitVec 5) (funct7 : BitVec 7) : LengthClass.Statement (.slli rd rs1 shamt funct7) := by
  simp [LengthClass.Statement, encode, lenClass_lowUnit]

theorem LengthClass.srli (rd rs1 : RegIndex) (shamt : BitVec 5) : LengthClass.Statement (.srli rd rs1 shamt) := by
  simp [LengthClass.Statement, encode, lenClass_lowUnit]

theorem LengthClass.srai (rd rs1 : RegIndex) (shamt : BitVec 5) : LengthClass.Statement (.srai rd rs1 shamt) := by
  simp [LengthClass.Statement, encode, lenClass_lowUnit]

theorem LengthClass.add (rd rs1 rs2 : RegIndex) : LengthClass.Statement (.add rd rs1 rs2) := by
  simp [LengthClass.Statement, encode, lenClass_lowUnit]

theorem LengthClass.sub (rd rs1 rs2 : RegIndex) : LengthClass.Statement (.sub rd rs1 rs2) := by
  simp [LengthClass.Statement, encode, lenClass_lowUnit]

theorem LengthClass.sll (rd rs1 rs2 : RegIndex) (funct7 : BitVec 7) : LengthClass.Statement (.sll rd rs1 rs2 funct7) := by
  simp [LengthClass.Statement, encode, lenClass_lowUnit]

theorem LengthClass.slt (rd rs1 rs2 : RegIndex) (funct7 : BitVec 7) : LengthClass.Statement (.slt rd rs1 rs2 funct7) := by
  simp [LengthClass.Statement, encode, lenClass_lowUnit]

theorem LengthClass.sltu (rd rs1 rs2 : RegIndex) (funct7 : BitVec 7) : LengthClass.Statement (.sltu rd rs1 rs2 funct7) := by
  simp [LengthClass.Statement, encode, lenClass_lowUnit]

theorem LengthClass.xor (rd rs1 rs2 : RegIndex) (funct7 : BitVec 7) : LengthClass.Statement (.xor rd rs1 rs2 funct7) := by
  simp [LengthClass.Statement, encode, lenClass_lowUnit]

theorem LengthClass.srl (rd rs1 rs2 : RegIndex) : LengthClass.Statement (.srl rd rs1 rs2) := by
  simp [LengthClass.Statement, encode, lenClass_lowUnit]

theorem LengthClass.sra (rd rs1 rs2 : RegIndex) : LengthClass.Statement (.sra rd rs1 rs2) := by
  simp [LengthClass.Statement, encode, lenClass_lowUnit]

theorem LengthClass.or (rd rs1 rs2 : RegIndex) (funct7 : BitVec 7) : LengthClass.Statement (.or rd rs1 rs2 funct7) := by
  simp [LengthClass.Statement, encode, lenClass_lowUnit]

theorem LengthClass.and (rd rs1 rs2 : RegIndex) (funct7 : BitVec 7) : LengthClass.Statement (.and rd rs1 rs2 funct7) := by
  simp [LengthClass.Statement, encode, lenClass_lowUnit]

theorem LengthClass.fence (rest : BitVec 25) : LengthClass.Statement (.fence rest) := by
  simp [LengthClass.Statement, encode, lenClass_lowUnit]

theorem LengthClass.ecall (rest : BitVec 13) : LengthClass.Statement (.ecall rest) := by
  simp [LengthClass.Statement, encode, lenClass_lowUnit]

theorem LengthClass.ebreak (rest : BitVec 13) : LengthClass.Statement (.ebreak rest) := by
  simp [LengthClass.Statement, encode, lenClass_lowUnit]

theorem lenClass_encode (i : Instr) : lenClass (lowUnit (encode i)) = .len32 := by
  cases i
  case lui rd imm => exact LengthClass.lui rd imm
  case auipc rd imm => exact LengthClass.auipc rd imm
  case jal rd offset => exact LengthClass.jal rd offset
  case jalr rd rs1 imm funct3 => exact LengthClass.jalr rd rs1 imm funct3
  case beq rs1 rs2 offset => exact LengthClass.beq rs1 rs2 offset
  case bne rs1 rs2 offset => exact LengthClass.bne rs1 rs2 offset
  case blt rs1 rs2 offset => exact LengthClass.blt rs1 rs2 offset
  case bge rs1 rs2 offset => exact LengthClass.bge rs1 rs2 offset
  case bltu rs1 rs2 offset => exact LengthClass.bltu rs1 rs2 offset
  case bgeu rs1 rs2 offset => exact LengthClass.bgeu rs1 rs2 offset
  case lb rd rs1 offset => exact LengthClass.lb rd rs1 offset
  case lh rd rs1 offset => exact LengthClass.lh rd rs1 offset
  case lw rd rs1 offset => exact LengthClass.lw rd rs1 offset
  case lbu rd rs1 offset => exact LengthClass.lbu rd rs1 offset
  case lhu rd rs1 offset => exact LengthClass.lhu rd rs1 offset
  case sb rs2 rs1 offset => exact LengthClass.sb rs2 rs1 offset
  case sh rs2 rs1 offset => exact LengthClass.sh rs2 rs1 offset
  case sw rs2 rs1 offset => exact LengthClass.sw rs2 rs1 offset
  case addi rd rs1 imm => exact LengthClass.addi rd rs1 imm
  case slti rd rs1 imm => exact LengthClass.slti rd rs1 imm
  case sltiu rd rs1 imm => exact LengthClass.sltiu rd rs1 imm
  case xori rd rs1 imm => exact LengthClass.xori rd rs1 imm
  case ori rd rs1 imm => exact LengthClass.ori rd rs1 imm
  case andi rd rs1 imm => exact LengthClass.andi rd rs1 imm
  case slli rd rs1 shamt funct7 => exact LengthClass.slli rd rs1 shamt funct7
  case srli rd rs1 shamt => exact LengthClass.srli rd rs1 shamt
  case srai rd rs1 shamt => exact LengthClass.srai rd rs1 shamt
  case add rd rs1 rs2 => exact LengthClass.add rd rs1 rs2
  case sub rd rs1 rs2 => exact LengthClass.sub rd rs1 rs2
  case sll rd rs1 rs2 funct7 => exact LengthClass.sll rd rs1 rs2 funct7
  case slt rd rs1 rs2 funct7 => exact LengthClass.slt rd rs1 rs2 funct7
  case sltu rd rs1 rs2 funct7 => exact LengthClass.sltu rd rs1 rs2 funct7
  case xor rd rs1 rs2 funct7 => exact LengthClass.xor rd rs1 rs2 funct7
  case srl rd rs1 rs2 => exact LengthClass.srl rd rs1 rs2
  case sra rd rs1 rs2 => exact LengthClass.sra rd rs1 rs2
  case or rd rs1 rs2 funct7 => exact LengthClass.or rd rs1 rs2 funct7
  case and rd rs1 rs2 funct7 => exact LengthClass.and rd rs1 rs2 funct7
  case fence rest => exact LengthClass.fence rest
  case ecall rest => exact LengthClass.ecall rest
  case ebreak rest => exact LengthClass.ebreak rest

theorem RoundTrip.lui (rd : RegIndex) (imm : BitVec 20) : RoundTrip.Statement (.lui rd imm) := by
  intro _; simp [encode, decodeWord]

theorem RoundTrip.auipc (rd : RegIndex) (imm : BitVec 20) : RoundTrip.Statement (.auipc rd imm) := by
  intro _; simp [encode, decodeWord]

theorem RoundTrip.jal (rd : RegIndex) (offset : BitVec 21) : RoundTrip.Statement (.jal rd offset) := by
  intro h
  have h0 : offset.getLsbD 0 = false := by simpa [Instr.WellFormed] using h
  simp [encode, decodeWord, immJOf_packJ _ _ _ h0]

theorem RoundTrip.jalr (rd rs1 : RegIndex) (imm : BitVec 12) (funct3 : BitVec 3) : RoundTrip.Statement (.jalr rd rs1 imm funct3) := by
  intro _; simp [encode, decodeWord]

theorem RoundTrip.beq (rs1 rs2 : RegIndex) (offset : BitVec 13) : RoundTrip.Statement (.beq rs1 rs2 offset) := by
  intro h
  have h0 : offset.getLsbD 0 = false := by simpa [Instr.WellFormed] using h
  simp [encode, decodeWord, decodeBranch, immBOf_packB _ _ _ _ _ h0]

theorem RoundTrip.bne (rs1 rs2 : RegIndex) (offset : BitVec 13) : RoundTrip.Statement (.bne rs1 rs2 offset) := by
  intro h
  have h0 : offset.getLsbD 0 = false := by simpa [Instr.WellFormed] using h
  simp [encode, decodeWord, decodeBranch, immBOf_packB _ _ _ _ _ h0]

theorem RoundTrip.blt (rs1 rs2 : RegIndex) (offset : BitVec 13) : RoundTrip.Statement (.blt rs1 rs2 offset) := by
  intro h
  have h0 : offset.getLsbD 0 = false := by simpa [Instr.WellFormed] using h
  simp [encode, decodeWord, decodeBranch, immBOf_packB _ _ _ _ _ h0]

theorem RoundTrip.bge (rs1 rs2 : RegIndex) (offset : BitVec 13) : RoundTrip.Statement (.bge rs1 rs2 offset) := by
  intro h
  have h0 : offset.getLsbD 0 = false := by simpa [Instr.WellFormed] using h
  simp [encode, decodeWord, decodeBranch, immBOf_packB _ _ _ _ _ h0]

theorem RoundTrip.bltu (rs1 rs2 : RegIndex) (offset : BitVec 13) : RoundTrip.Statement (.bltu rs1 rs2 offset) := by
  intro h
  have h0 : offset.getLsbD 0 = false := by simpa [Instr.WellFormed] using h
  simp [encode, decodeWord, decodeBranch, immBOf_packB _ _ _ _ _ h0]

theorem RoundTrip.bgeu (rs1 rs2 : RegIndex) (offset : BitVec 13) : RoundTrip.Statement (.bgeu rs1 rs2 offset) := by
  intro h
  have h0 : offset.getLsbD 0 = false := by simpa [Instr.WellFormed] using h
  simp [encode, decodeWord, decodeBranch, immBOf_packB _ _ _ _ _ h0]

theorem RoundTrip.lb (rd rs1 : RegIndex) (offset : BitVec 12) : RoundTrip.Statement (.lb rd rs1 offset) := by
  intro _; simp [encode, decodeWord, decodeLoad]

theorem RoundTrip.lh (rd rs1 : RegIndex) (offset : BitVec 12) : RoundTrip.Statement (.lh rd rs1 offset) := by
  intro _; simp [encode, decodeWord, decodeLoad]

theorem RoundTrip.lw (rd rs1 : RegIndex) (offset : BitVec 12) : RoundTrip.Statement (.lw rd rs1 offset) := by
  intro _; simp [encode, decodeWord, decodeLoad]

theorem RoundTrip.lbu (rd rs1 : RegIndex) (offset : BitVec 12) : RoundTrip.Statement (.lbu rd rs1 offset) := by
  intro _; simp [encode, decodeWord, decodeLoad]

theorem RoundTrip.lhu (rd rs1 : RegIndex) (offset : BitVec 12) : RoundTrip.Statement (.lhu rd rs1 offset) := by
  intro _; simp [encode, decodeWord, decodeLoad]

theorem RoundTrip.sb (rs2 rs1 : RegIndex) (offset : BitVec 12) : RoundTrip.Statement (.sb rs2 rs1 offset) := by
  intro _; simp [encode, decodeWord, decodeStore]

theorem RoundTrip.sh (rs2 rs1 : RegIndex) (offset : BitVec 12) : RoundTrip.Statement (.sh rs2 rs1 offset) := by
  intro _; simp [encode, decodeWord, decodeStore]

theorem RoundTrip.sw (rs2 rs1 : RegIndex) (offset : BitVec 12) : RoundTrip.Statement (.sw rs2 rs1 offset) := by
  intro _; simp [encode, decodeWord, decodeStore]

theorem RoundTrip.addi (rd rs1 : RegIndex) (imm : BitVec 12) : RoundTrip.Statement (.addi rd rs1 imm) := by
  intro _; simp [encode, decodeWord, decodeAluImm]

theorem RoundTrip.slti (rd rs1 : RegIndex) (imm : BitVec 12) : RoundTrip.Statement (.slti rd rs1 imm) := by
  intro _; simp [encode, decodeWord, decodeAluImm]

theorem RoundTrip.sltiu (rd rs1 : RegIndex) (imm : BitVec 12) : RoundTrip.Statement (.sltiu rd rs1 imm) := by
  intro _; simp [encode, decodeWord, decodeAluImm]

theorem RoundTrip.xori (rd rs1 : RegIndex) (imm : BitVec 12) : RoundTrip.Statement (.xori rd rs1 imm) := by
  intro _; simp [encode, decodeWord, decodeAluImm]

theorem RoundTrip.ori (rd rs1 : RegIndex) (imm : BitVec 12) : RoundTrip.Statement (.ori rd rs1 imm) := by
  intro _; simp [encode, decodeWord, decodeAluImm]

theorem RoundTrip.andi (rd rs1 : RegIndex) (imm : BitVec 12) : RoundTrip.Statement (.andi rd rs1 imm) := by
  intro _; simp [encode, decodeWord, decodeAluImm]

theorem RoundTrip.slli (rd rs1 : RegIndex) (shamt : BitVec 5) (funct7 : BitVec 7) : RoundTrip.Statement (.slli rd rs1 shamt funct7) := by
  intro _; simp [encode, decodeWord, decodeAluImm]

theorem RoundTrip.srli (rd rs1 : RegIndex) (shamt : BitVec 5) : RoundTrip.Statement (.srli rd rs1 shamt) := by
  intro _; simp [encode, decodeWord, decodeAluImm]

theorem RoundTrip.srai (rd rs1 : RegIndex) (shamt : BitVec 5) : RoundTrip.Statement (.srai rd rs1 shamt) := by
  intro _; simp [encode, decodeWord, decodeAluImm]

theorem RoundTrip.add (rd rs1 rs2 : RegIndex) : RoundTrip.Statement (.add rd rs1 rs2) := by
  intro _; simp [encode, decodeWord, decodeAluReg]

theorem RoundTrip.sub (rd rs1 rs2 : RegIndex) : RoundTrip.Statement (.sub rd rs1 rs2) := by
  intro _; simp [encode, decodeWord, decodeAluReg]

theorem RoundTrip.sll (rd rs1 rs2 : RegIndex) (funct7 : BitVec 7) : RoundTrip.Statement (.sll rd rs1 rs2 funct7) := by
  intro _; simp [encode, decodeWord, decodeAluReg]

theorem RoundTrip.slt (rd rs1 rs2 : RegIndex) (funct7 : BitVec 7) : RoundTrip.Statement (.slt rd rs1 rs2 funct7) := by
  intro _; simp [encode, decodeWord, decodeAluReg]

theorem RoundTrip.sltu (rd rs1 rs2 : RegIndex) (funct7 : BitVec 7) : RoundTrip.Statement (.sltu rd rs1 rs2 funct7) := by
  intro _; simp [encode, decodeWord, decodeAluReg]

theorem RoundTrip.xor (rd rs1 rs2 : RegIndex) (funct7 : BitVec 7) : RoundTrip.Statement (.xor rd rs1 rs2 funct7) := by
  intro _; simp [encode, decodeWord, decodeAluReg]

theorem RoundTrip.srl (rd rs1 rs2 : RegIndex) : RoundTrip.Statement (.srl rd rs1 rs2) := by
  intro _; simp [encode, decodeWord, decodeAluReg]

theorem RoundTrip.sra (rd rs1 rs2 : RegIndex) : RoundTrip.Statement (.sra rd rs1 rs2) := by
  intro _; simp [encode, decodeWord, decodeAluReg]

theorem RoundTrip.or (rd rs1 rs2 : RegIndex) (funct7 : BitVec 7) : RoundTrip.Statement (.or rd rs1 rs2 funct7) := by
  intro _; simp [encode, decodeWord, decodeAluReg]

theorem RoundTrip.and (rd rs1 rs2 : RegIndex) (funct7 : BitVec 7) : RoundTrip.Statement (.and rd rs1 rs2 funct7) := by
  intro _; simp [encode, decodeWord, decodeAluReg]

theorem RoundTrip.fence (rest : BitVec 25) : RoundTrip.Statement (.fence rest) := by
  intro _; simp [encode, decodeWord]

theorem RoundTrip.ecall (rest : BitVec 13) : RoundTrip.Statement (.ecall rest) := by
  intro _; simp [encode, decodeWord, decodeSystem]

theorem RoundTrip.ebreak (rest : BitVec 13) : RoundTrip.Statement (.ebreak rest) := by
  intro _; simp [encode, decodeWord, decodeSystem]

theorem decodeWord_encode (i : Instr) : i.WellFormed = true → decodeWord (encode i) = some i := by
  cases i
  case lui rd imm => exact RoundTrip.lui rd imm
  case auipc rd imm => exact RoundTrip.auipc rd imm
  case jal rd offset => exact RoundTrip.jal rd offset
  case jalr rd rs1 imm funct3 => exact RoundTrip.jalr rd rs1 imm funct3
  case beq rs1 rs2 offset => exact RoundTrip.beq rs1 rs2 offset
  case bne rs1 rs2 offset => exact RoundTrip.bne rs1 rs2 offset
  case blt rs1 rs2 offset => exact RoundTrip.blt rs1 rs2 offset
  case bge rs1 rs2 offset => exact RoundTrip.bge rs1 rs2 offset
  case bltu rs1 rs2 offset => exact RoundTrip.bltu rs1 rs2 offset
  case bgeu rs1 rs2 offset => exact RoundTrip.bgeu rs1 rs2 offset
  case lb rd rs1 offset => exact RoundTrip.lb rd rs1 offset
  case lh rd rs1 offset => exact RoundTrip.lh rd rs1 offset
  case lw rd rs1 offset => exact RoundTrip.lw rd rs1 offset
  case lbu rd rs1 offset => exact RoundTrip.lbu rd rs1 offset
  case lhu rd rs1 offset => exact RoundTrip.lhu rd rs1 offset
  case sb rs2 rs1 offset => exact RoundTrip.sb rs2 rs1 offset
  case sh rs2 rs1 offset => exact RoundTrip.sh rs2 rs1 offset
  case sw rs2 rs1 offset => exact RoundTrip.sw rs2 rs1 offset
  case addi rd rs1 imm => exact RoundTrip.addi rd rs1 imm
  case slti rd rs1 imm => exact RoundTrip.slti rd rs1 imm
  case sltiu rd rs1 imm => exact RoundTrip.sltiu rd rs1 imm
  case xori rd rs1 imm => exact RoundTrip.xori rd rs1 imm
  case ori rd rs1 imm => exact RoundTrip.ori rd rs1 imm
  case andi rd rs1 imm => exact RoundTrip.andi rd rs1 imm
  case slli rd rs1 shamt funct7 => exact RoundTrip.slli rd rs1 shamt funct7
  case srli rd rs1 shamt => exact RoundTrip.srli rd rs1 shamt
  case srai rd rs1 shamt => exact RoundTrip.srai rd rs1 shamt
  case add rd rs1 rs2 => exact RoundTrip.add rd rs1 rs2
  case sub rd rs1 rs2 => exact RoundTrip.sub rd rs1 rs2
  case sll rd rs1 rs2 funct7 => exact RoundTrip.sll rd rs1 rs2 funct7
  case slt rd rs1 rs2 funct7 => exact RoundTrip.slt rd rs1 rs2 funct7
  case sltu rd rs1 rs2 funct7 => exact RoundTrip.sltu rd rs1 rs2 funct7
  case xor rd rs1 rs2 funct7 => exact RoundTrip.xor rd rs1 rs2 funct7
  case srl rd rs1 rs2 => exact RoundTrip.srl rd rs1 rs2
  case sra rd rs1 rs2 => exact RoundTrip.sra rd rs1 rs2
  case or rd rs1 rs2 funct7 => exact RoundTrip.or rd rs1 rs2 funct7
  case and rd rs1 rs2 funct7 => exact RoundTrip.and rd rs1 rs2 funct7
  case fence rest => exact RoundTrip.fence rest
  case ecall rest => exact RoundTrip.ecall rest
  case ebreak rest => exact RoundTrip.ebreak rest

end Sys2Proof.Laws
end

