-- ==== Sys2Proof/Laws/Step.lean ====
section
/-! SUPPORT. What a meaning and a step can do, said once: every later proof cites these and unfolds neither. -/

namespace Sys2Proof.Machine

/-- A meaning writes the result register and nothing else, and what it writes does not depend on the state. -/
theorem exec_latches (i : Instr) : ∃ r : ResultReg, ∀ s : State, exec i s = .next (s.latch r) := by
  cases i <;> exact ⟨_, fun _ => rfl⟩

/-- Every meaning but FENCE's latches an OK result over the instruction's own word. -/
theorem exec_ok_or_fence (i : Instr) :
    (∃ opc layout wd, ∀ s : State, exec i s = .next (s.latchOk (encode i) opc layout wd)) ∨
    (∃ rest, i = .fence rest ∧
      ∀ s : State, exec i s = .next (s.latchError .unsupportedEncoding .fenceGroup 2#2 (encode i))) := by
  cases i
  case fence rest => exact .inr ⟨rest, rfl, fun _ => rfl⟩
  all_goals exact .inl ⟨_, _, _, fun _ => rfl⟩

/-- A step is one of four edges: reset, a decode that finds an instruction, a decode that rejects, idle. -/
theorem step_edges (s : State) :
    (s.ports.rst = true ∧ step s = .next s.tick.resetRegister) ∨
    (s.ports.rst = false ∧ s.ports.req = true ∧
      ∃ i, decodeUnits s.ports.unit0 s.ports.unit1 = .instr i ∧ step s = exec i s.tick) ∨
    (s.ports.rst = false ∧ s.ports.req = true ∧
      ∃ e, decodeUnits s.ports.unit0 s.ports.unit1 = .reject e ∧ step s = .next (s.tick.latchReject e)) ∨
    (s.ports.rst = false ∧ s.ports.req = false ∧ step s = .next s.tick) := by
  unfold step clockEdge decodeAtEdge
  cases hr : s.ports.rst
  · cases hq : s.ports.req
    · exact .inr (.inr (.inr ⟨rfl, rfl, by simp⟩))
    · cases hd : decodeUnits s.ports.unit0 s.ports.unit1 with
      | instr i => exact .inr (.inl ⟨rfl, rfl, i, rfl, by simp⟩)
      | reject e => exact .inr (.inr (.inl ⟨rfl, rfl, e, rfl, by simp⟩))
  · exact .inl ⟨rfl, by simp⟩

end Sys2Proof.Machine
end

