-- ==== Sys2Proof/Laws/Table.lean ====
section
/-! SUPPORT. A row of the opcode table read through the fields of the word: one lemma per mask the table uses. -/

namespace Sys2Proof.Machine

variable (w p : Word) (result : Dispatched)

/-- A row keyed by the major opcode alone. -/
theorem covers_major (hp : p &&& 0x0000007f#32 = p) :
    (TableRow.mk 0x0000007f#32 p result).covers w = decide (majorOf w = majorOf p) := by
  simp only [TableRow.covers, ← and_major_iff w p hp]
  exact beq_eq_decide ..

/-- A row keyed by the major opcode and funct3. -/
theorem covers_funct3 (hp : p &&& 0x0000707f#32 = p) :
    (TableRow.mk 0x0000707f#32 p result).covers w = decide (majorOf w = majorOf p ∧ funct3Of w = funct3Of p) := by
  simp only [TableRow.covers, ← and_funct3_iff w p hp]
  exact beq_eq_decide ..

/-- A row keyed by the major opcode, funct3 and funct7. -/
theorem covers_funct7 (hp : p &&& 0xfe00707f#32 = p) :
    (TableRow.mk 0xfe00707f#32 p result).covers w =
      decide (majorOf w = majorOf p ∧ funct3Of w = funct3Of p ∧ funct7Of w = funct7Of p) := by
  simp only [TableRow.covers, ← and_funct7_iff w p hp]
  exact beq_eq_decide ..

/-- A row keyed by the major opcode and the SYSTEM sub-key. -/
theorem covers_system (hp : p &&& 0xfff0007f#32 = p) :
    (TableRow.mk 0xfff0007f#32 p result).covers w =
      decide (majorOf w = majorOf p ∧ systemKeyOf w = systemKeyOf p) := by
  simp only [TableRow.covers, ← and_system_iff w p hp]
  exact beq_eq_decide ..

/-- Two rows whose patterns differ at a bit that both masks keep share no word. -/
theorem rows_disjoint_of_clash {a b : TableRow} (h : (a.pattern ^^^ b.pattern) &&& (a.mask &&& b.mask) ≠ 0#32) (w : Word) :
    ¬ (a.covers w = true ∧ b.covers w = true) := by
  rintro ⟨ha, hb⟩
  simp only [TableRow.covers, beq_iff_eq] at ha hb
  apply h
  rw [← ha, ← hb]
  apply eq_of_bits
  intro i _
  simp only [BitVec.getLsbD_and, BitVec.getLsbD_xor, BitVec.getLsbD_zero]
  cases w.getLsbD i <;> cases a.mask.getLsbD i <;> cases b.mask.getLsbD i <;> rfl

end Sys2Proof.Machine
end

