-- ==== Sys2Proof/Tests/Slice0.lean ====
section
/-! SUPPORT. The model's own tests: words and results taken from the rules and from `95_test_vectors.md`, one step each;
and a witness for the hypotheses of every statement that has some. -/

namespace Sys2Proof.Tests

open Sys2Proof Sys2Proof.Machine

/-! ### Helpers -/

/-- After reset, with one decode edge that presents a whole word. -/
def presented (w : Word) : State := State.reset.drive (presentWord w)

/-- After reset, with one decode edge that presents these units. -/
def unitsAt (unit0 unit1 : Option CodeUnit) : State := State.reset.drive (.decodeEdge unit0 unit1)

/-- The register after the next edge is `r`. -/
def leaves (s : State) (r : ResultReg) : Bool :=
  match step s with
  | .next t => t.result == r
  | .fault _ | .refused _ => false

/-- A row of the vector tables: an OK with this tag, these visible operands, this flag and this text. -/
def decodesTo (w : Word) (opc : BitVec 6) (ops : List Operand) (wd : Bool) (text : String) : Bool :=
  match step (presented w) with
  | .next t => t.result.status == 1#3 && t.result.units == 2#2 && t.result.word == w && t.result.opc == opc &&
      t.result.wd == wd && visibleOperands t.result.operands == ops && render t.result == some text
  | .fault _ | .refused _ => false

/-- A row of the lane table: the count and the three lanes after the word's decode. -/
def lanesOf (w : Word) (n : BitVec 2) (l0 l1 l2 : Lane) : Bool :=
  match step (presented w) with
  | .next t => t.outputs.nOps == n && t.outputs.lane0 == l0 && t.outputs.lane1 == l1 && t.outputs.lane2 == l2
  | .fault _ | .refused _ => false

/-- A row of the error tables for a whole word: InvalidOpcode, two units. -/
def invalid (w : Word) : Bool := leaves (presented w) ⟨4, 0, 2, w, 0, 0, 0, 0, false⟩

/-- A register no decode produces, as a power-up draw may be. -/
def junk : ResultReg := ⟨7, 3, 3, 0xffffffff, 63, 15, 0, 13, true⟩

/-! ### WellFormed refuses what no word encodes (R31) -/

theorem test_illformed_jal : (Instr.jal 1 0x000001).WellFormed = false := by decide
theorem test_illformed_beq : (Instr.beq 1 2 0x0001).WellFormed = false := by decide
theorem test_illformed_bne : (Instr.bne 1 2 0x0003).WellFormed = false := by decide
theorem test_illformed_blt : (Instr.blt 1 2 0x1fff).WellFormed = false := by decide
theorem test_illformed_bge : (Instr.bge 1 2 0x0ff1).WellFormed = false := by decide
theorem test_illformed_bltu : (Instr.bltu 1 2 0x1001).WellFormed = false := by decide
theorem test_illformed_bgeu : (Instr.bgeu 1 2 0x0801).WellFormed = false := by decide
theorem test_wellformed_jal : (Instr.jal 1 0x1ffffe).WellFormed = true := by decide

/-! ### Words written out field by field from the format rows of R41 -/

theorem test_bits_u : decodeWord (0x12345#20 ++ 0b01010#5 ++ 0b0110111#7) = some (.lui 10 0x12345) := by decide
/-- imm[20] = 1, imm[10:1] = 1111111110, imm[11] = 1, imm[19:12] = 11111111: the displacement -4. -/
theorem test_bits_j :
    decodeWord (0b1#1 ++ 0b1111111110#10 ++ 0b1#1 ++ 0b11111111#8 ++ 0b00000#5 ++ 0b1101111#7) =
      some (.jal 0 0x1ffffc) := by decide
theorem test_bits_i :
    decodeWord (0x800#12 ++ 0b01010#5 ++ 0b000#3 ++ 0b00001#5 ++ 0b1100111#7) = some (.jalr 1 10 0x800 0) := by decide
/-- imm[12] = 1, imm[10:5] = 111111, imm[4:1] = 0110, imm[11] = 1: the displacement -20. -/
theorem test_bits_b :
    decodeWord (0b1#1 ++ 0b111111#6 ++ 0b00000#5 ++ 0b01111#5 ++ 0b001#3 ++ 0b0110#4 ++ 0b1#1 ++ 0b1100011#7) =
      some (.bne 15 0 0x1fec) := by decide
theorem test_bits_load :
    decodeWord (0xffc#12 ++ 0b01000#5 ++ 0b010#3 ++ 0b01010#5 ++ 0b0000011#7) = some (.lw 10 8 0xffc) := by decide
theorem test_bits_store :
    decodeWord (0b0001100#7 ++ 0b01010#5 ++ 0b00010#5 ++ 0b010#3 ++ 0b00000#5 ++ 0b0100011#7) =
      some (.sw 10 2 0x180) := by decide
theorem test_bits_shift :
    decodeWord (0b0100000#7 ++ 0b11111#5 ++ 0b01011#5 ++ 0b101#3 ++ 0b01010#5 ++ 0b0010011#7) =
      some (.srai 10 11 31) := by decide
theorem test_bits_r :
    decodeWord (0b0100000#7 ++ 0b01011#5 ++ 0b00000#5 ++ 0b000#3 ++ 0b01010#5 ++ 0b0110011#7) =
      some (.sub 10 0 11) := by decide
theorem test_bits_fence : decodeWord (0x1fe000#25 ++ 0b0001111#7) = some (.fence 0x1fe000) := by decide
theorem test_bits_system : decodeWord (0x001#12 ++ 0b0000000000000#13 ++ 0b1110011#7) = some (.ebreak 0) := by decide
/-- Source scenario 1 as bytes, `13 06 c6 fb` (R28). -/
theorem test_bytes_addi : decodeBytes [0x13, 0x06, 0xc6, 0xfb] = .instr (.addi 12 12 0xfbc) := by decide
/-- Scenario 6 through the host's own entry. -/
theorem test_table_word : decodeTableWord 32 0x00000013 = some (.addi 0 0 0) := by decide

/-! ### One decode and one step per instruction -/

/-! #### Upper immediates and jumps (vectors 3.3 and scenario 2) -/

theorem test_decode_lui : decodeWord 0x12345537#32 = some (.lui 10 0x12345) := by decide
theorem test_step_lui : decodesTo 0x12345537#32 1 [.reg 10, .longImm 0x12345000] true "lui a0, 0x12345" = true := by
  decide
theorem test_decode_auipc : decodeWord 0x02883197#32 = some (.auipc 3 0x02883) := by decide
theorem test_step_auipc : decodesTo 0x02883197#32 2 [.reg 3, .longImm 0x02883000] true "auipc gp, 0x2883" = true := by
  decide
theorem test_decode_jal : decodeWord 0x8000006f#32 = some (.jal 0 0x100000) := by decide
theorem test_step_jal : decodesTo 0x8000006f#32 3 [.reg 0, .jOffset (-1048576)] true "jal zero, $-0x100000" = true := by
  decide
theorem test_decode_jalr : decodeWord 0x800500e7#32 = some (.jalr 1 10 0x800 0) := by decide
theorem test_step_jalr : decodesTo 0x800500e7#32 4 [.reg 1, .reg 10, .imm (-2048)] true "jalr ra, a0, -0x800" = true := by
  decide

/-! #### Branches (vectors 3.4) -/

theorem test_decode_beq : decodeWord 0x80b50063#32 = some (.beq 10 11 0x1000) := by decide
theorem test_step_beq : decodesTo 0x80b50063#32 5 [.reg 10, .reg 11, .jOffset (-4096)] true "beq a0, a1, $-0x1000" = true := by
  decide
theorem test_decode_bne : decodeWord 0xfe0796e3#32 = some (.bne 15 0 0x1fec) := by decide
theorem test_step_bne : decodesTo 0xfe0796e3#32 6 [.reg 15, .reg 0, .jOffset (-20)] true "bne a5, zero, $-0x14" = true := by
  decide
theorem test_decode_blt : decodeWord 0xfe944fe3#32 = some (.blt 8 9 0x1ffe) := by decide
theorem test_step_blt : decodesTo 0xfe944fe3#32 7 [.reg 8, .reg 9, .jOffset (-2)] true "blt s0, s1, $-0x2" = true := by
  decide
theorem test_decode_bge : decodeWord 0x0062d0e3#32 = some (.bge 5 6 0x0800) := by decide
theorem test_step_bge : decodesTo 0x0062d0e3#32 8 [.reg 5, .reg 6, .jOffset 2048] true "bge t0, t1, $+0x800" = true := by
  decide
theorem test_decode_bltu : decodeWord 0x7ed66f63#32 = some (.bltu 12 13 0x07fe) := by decide
theorem test_step_bltu : decodesTo 0x7ed66f63#32 9 [.reg 12, .reg 13, .jOffset 2046] true "bltu a2, a3, $+0x7fe" = true := by
  decide
theorem test_decode_bgeu : decodeWord 0x81ff70e3#32 = some (.bgeu 30 31 0x1800) := by decide
theorem test_step_bgeu : decodesTo 0x81ff70e3#32 10 [.reg 30, .reg 31, .jOffset (-2048)] true "bgeu t5, t6, $-0x800" = true := by
  decide

/-! #### Loads and stores (vectors 3.5) -/

theorem test_decode_lb : decodeWord 0xfff58503#32 = some (.lb 10 11 0xfff) := by decide
theorem test_step_lb : decodesTo 0xfff58503#32 11 [.reg 10, .baseOffset 11 (-1)] true "lb a0, -0x1(a1)" = true := by
  decide
theorem test_decode_lh : decodeWord 0x80011283#32 = some (.lh 5 2 0x800) := by decide
theorem test_step_lh : decodesTo 0x80011283#32 12 [.reg 5, .baseOffset 2 (-2048)] true "lh t0, -0x800(sp)" = true := by
  decide
theorem test_decode_lw : decodeWord 0x7ff12083#32 = some (.lw 1 2 0x7ff) := by decide
theorem test_step_lw : decodesTo 0x7ff12083#32 13 [.reg 1, .baseOffset 2 2047] true "lw ra, 0x7ff(sp)" = true := by
  decide
theorem test_decode_lbu : decodeWord 0x0011c003#32 = some (.lbu 0 3 0x001) := by decide
theorem test_step_lbu : decodesTo 0x0011c003#32 14 [.reg 0, .baseOffset 3 1] true "lbu zero, 0x1(gp)" = true := by
  decide
theorem test_decode_lhu : decodeWord 0xffe25d83#32 = some (.lhu 27 4 0xffe) := by decide
theorem test_step_lhu : decodesTo 0xffe25d83#32 15 [.reg 27, .baseOffset 4 (-2)] true "lhu s11, -0x2(tp)" = true := by
  decide
theorem test_decode_sb : decodeWord 0xfea10fa3#32 = some (.sb 10 2 0xfff) := by decide
theorem test_step_sb : decodesTo 0xfea10fa3#32 16 [.reg 10, .baseOffset 2 (-1)] true "sb a0, -0x1(sp)" = true := by
  decide
theorem test_decode_sh : decodeWord 0x80111023#32 = some (.sh 1 2 0x800) := by decide
theorem test_step_sh : decodesTo 0x80111023#32 17 [.reg 1, .baseOffset 2 (-2048)] true "sh ra, -0x800(sp)" = true := by
  decide
theorem test_decode_sw : decodeWord 0x7ff42fa3#32 = some (.sw 31 8 0x7ff) := by decide
theorem test_step_sw : decodesTo 0x7ff42fa3#32 18 [.reg 31, .baseOffset 8 2047] true "sw t6, 0x7ff(s0)" = true := by
  decide

/-! #### ALU with immediate (vectors 3.6, 3.10 and scenario 1) -/

theorem test_decode_addi : decodeWord 0xfbc60613#32 = some (.addi 12 12 0xfbc) := by decide
theorem test_step_addi : decodesTo 0xfbc60613#32 19 [.reg 12, .reg 12, .imm (-68)] true "addi a2, a2, -0x44" = true := by
  decide
theorem test_decode_slti : decodeWord 0xfff5a513#32 = some (.slti 10 11 0xfff) := by decide
theorem test_step_slti : decodesTo 0xfff5a513#32 20 [.reg 10, .reg 11, .imm (-1)] true "slti a0, a1, -0x1" = true := by
  decide
theorem test_decode_sltiu : decodeWord 0xfff5b513#32 = some (.sltiu 10 11 0xfff) := by decide
theorem test_step_sltiu : decodesTo 0xfff5b513#32 21 [.reg 10, .reg 11, .imm (-1)] true "sltiu a0, a1, -0x1" = true := by
  decide
theorem test_decode_xori : decodeWord 0xfff5c513#32 = some (.xori 10 11 0xfff) := by decide
theorem test_step_xori : decodesTo 0xfff5c513#32 22 [.reg 10, .reg 11, .imm (-1)] true "xori a0, a1, -0x1" = true := by
  decide
theorem test_decode_ori : decodeWord 0xaaa5e513#32 = some (.ori 10 11 0xaaa) := by decide
theorem test_step_ori : decodesTo 0xaaa5e513#32 23 [.reg 10, .reg 11, .imm (-1366)] true "ori a0, a1, -0x556" = true := by
  decide
theorem test_decode_andi : decodeWord 0x0ff5f513#32 = some (.andi 10 11 0x0ff) := by decide
theorem test_step_andi : decodesTo 0x0ff5f513#32 24 [.reg 10, .reg 11, .imm 255] true "andi a0, a1, 0xff" = true := by
  decide
theorem test_decode_slli : decodeWord 0x02359513#32 = some (.slli 10 11 3 1) := by decide
theorem test_step_slli : decodesTo 0x02359513#32 25 [.reg 10, .reg 11, .shift 3] false "slli a0, a1, 0x3" = true := by
  decide
theorem test_decode_srli : decodeWord 0x0015d513#32 = some (.srli 10 11 1) := by decide
theorem test_step_srli : decodesTo 0x0015d513#32 26 [.reg 10, .reg 11, .shift 1] true "srli a0, a1, 0x1" = true := by
  decide
theorem test_decode_srai : decodeWord 0x41f5d513#32 = some (.srai 10 11 31) := by decide
theorem test_step_srai : decodesTo 0x41f5d513#32 27 [.reg 10, .reg 11, .shift 31] true "srai a0, a1, 0x1f" = true := by
  decide

/-! #### ALU register-register (vectors 3.7 and scenario 3) -/

theorem test_decode_add : decodeWord 0x00c58533#32 = some (.add 10 11 12) := by decide
theorem test_step_add : decodesTo 0x00c58533#32 28 [.reg 10, .reg 11, .reg 12] true "add a0, a1, a2" = true := by decide
theorem test_decode_sub : decodeWord 0x40b00533#32 = some (.sub 10 0 11) := by decide
theorem test_step_sub : decodesTo 0x40b00533#32 29 [.reg 10, .reg 0, .reg 11] true "sub a0, zero, a1" = true := by
  decide
theorem test_decode_sll : decodeWord 0x02c59533#32 = some (.sll 10 11 12 1) := by decide
theorem test_step_sll : decodesTo 0x02c59533#32 30 [.reg 10, .reg 11, .reg 12] false "sll a0, a1, a2" = true := by
  decide
theorem test_decode_slt : decodeWord 0x00c5a533#32 = some (.slt 10 11 12 0) := by decide
theorem test_step_slt : decodesTo 0x00c5a533#32 31 [.reg 10, .reg 11, .reg 12] true "slt a0, a1, a2" = true := by decide
theorem test_decode_sltu : decodeWord 0x00c5b533#32 = some (.sltu 10 11 12 0) := by decide
theorem test_step_sltu : decodesTo 0x00c5b533#32 32 [.reg 10, .reg 11, .reg 12] true "sltu a0, a1, a2" = true := by
  decide
theorem test_decode_xor : decodeWord 0x40c5c533#32 = some (.xor 10 11 12 0x20) := by decide
theorem test_step_xor : decodesTo 0x40c5c533#32 33 [.reg 10, .reg 11, .reg 12] false "xor a0, a1, a2" = true := by
  decide
theorem test_decode_srl : decodeWord 0x00c5d533#32 = some (.srl 10 11 12) := by decide
theorem test_step_srl : decodesTo 0x00c5d533#32 34 [.reg 10, .reg 11, .reg 12] true "srl a0, a1, a2" = true := by decide
theorem test_decode_sra : decodeWord 0x407352b3#32 = some (.sra 5 6 7) := by decide
theorem test_step_sra : decodesTo 0x407352b3#32 35 [.reg 5, .reg 6, .reg 7] true "sra t0, t1, t2" = true := by decide
theorem test_decode_or : decodeWord 0x00b56533#32 = some (.or 10 10 11 0) := by decide
theorem test_step_or : decodesTo 0x00b56533#32 36 [.reg 10, .reg 10, .reg 11] true "or a0, a0, a1" = true := by decide
theorem test_decode_and : decodeWord 0x00c5f533#32 = some (.and 10 11 12 0) := by decide
theorem test_step_and : decodesTo 0x00c5f533#32 37 [.reg 10, .reg 11, .reg 12] true "and a0, a1, a2" = true := by decide

/-! #### FENCE and SYSTEM (vectors 3.8) -/

theorem test_decode_fence : decodeWord 0x0ff0000f#32 = some (.fence 0x1fe000) := by decide
theorem test_step_fence : leaves (presented 0x0ff0000f#32) ⟨3, 3, 2, 0x0ff0000f, 0, 0, 0, 0, false⟩ = true := by decide
theorem test_decode_ecall : decodeWord 0x000010f3#32 = some (.ecall 0x0021) := by decide
theorem test_step_ecall : decodesTo 0x000010f3#32 39 [] false "ecall" = true := by decide
theorem test_decode_ebreak : decodeWord 0x00108073#32 = some (.ebreak 0x0100) := by decide
theorem test_step_ebreak : decodesTo 0x00108073#32 40 [] false "ebreak" = true := by decide

/-! ### Errors, their order, and what is not read (vectors 3.1, 3.4 to 3.8) -/

theorem test_no_unit0 : leaves (unitsAt none (some 0x0050)) ⟨2, 0, 0, 0, 0, 0, 0, 0, false⟩ = true := by decide
theorem test_compressed : leaves (unitsAt (some 0x0001) none) ⟨3, 1, 1, 0x0001, 0, 0, 0, 0, false⟩ = true := by decide
theorem test_compressed_zero : leaves (unitsAt (some 0x0000) none) ⟨3, 1, 1, 0, 0, 0, 0, 0, false⟩ = true := by decide
theorem test_wide : leaves (unitsAt (some 0x001f) (some 0)) ⟨3, 2, 1, 0x001f, 0, 0, 0, 0, false⟩ = true := by decide
theorem test_wide_ones : leaves (unitsAt (some 0xffff) none) ⟨3, 2, 1, 0xffff, 0, 0, 0, 0, false⟩ = true := by decide
theorem test_no_unit1 : leaves (unitsAt (some 0x0073) none) ⟨2, 0, 1, 0x0073, 0, 0, 0, 0, false⟩ = true := by decide
theorem test_invalid_branch : invalid 0x00b52463#32 = true ∧ invalid 0x00b53463#32 = true := by decide
theorem test_invalid_load : invalid 0x01013503#32 = true ∧ invalid 0x01017503#32 = true := by decide
theorem test_invalid_store : invalid 0x18a13023#32 = true ∧ invalid 0x18a17023#32 = true := by decide
theorem test_invalid_shift : invalid 0x0215d513#32 = true ∧ invalid 0xc015d513#32 = true := by decide
theorem test_invalid_alu_reg : invalid 0x02c58533#32 = true ∧ invalid 0xfec58533#32 = true := by decide
theorem test_invalid_system : invalid 0x30200073#32 = true ∧ invalid 0x00200073#32 = true := by decide
theorem test_invalid_major : invalid 0x0000003b#32 = true ∧ invalid 0x0000005b#32 = true := by decide

/-! ### Reset, idle and the power-up draw (R21, R151 to R153) -/

theorem test_reset_over_request :
    leaves { result := junk, inputs := [{ presentWord 0x00000013#32 with rst := true }] }
      ⟨0, 0, 0, 0, 0, 0, 0, 0, false⟩ = true := by decide
theorem test_idle_holds : leaves { result := junk, inputs := [.idle, presentWord 0x13#32] } junk = true := by decide
theorem test_decode_over_junk :
    leaves { result := junk, inputs := [presentWord 0x00008067#32] } ⟨1, 0, 2, 0x00008067, 4, 3, 1, 4, true⟩ = true := by
  decide

/-! ### The field extractor (vectors 3.2) -/

theorem test_fields_low : [FieldSpec.rs1, .rs2, .rd, .shamt, .imm20U].map (fieldOf 0xaaaaaaaa#32) =
    [21, 10, 21, 10, 0xaaaaa000] := by decide
theorem test_fields_signed : [FieldSpec.imm12I, .imm12S, .imm12B, .imm20J].map (fun f => (fieldOf 0xaaaaaaaa#32 f).toInt) =
    [-1366, -1355, -1356, -351574] := by decide
theorem test_fields_bit7 : [FieldSpec.rd, .imm12S, .imm12B, .imm20J].map (fieldOf 0x00000080#32) = [1, 1, 2048, 0] := by
  decide
theorem test_fields_bit20 : [FieldSpec.rs2, .imm12I, .imm12B, .imm20J].map (fieldOf 0x00100000#32) = [1, 1, 0, 2048] := by
  decide

/-! ### The operand lanes (vectors 3.9) -/

theorem test_lanes_addi :
    lanesOf 0xfbc60613#32 3 ⟨1, 12, 0xc⟩ ⟨1, 12, 0xc⟩ ⟨2, 0, 0xffffffbc⟩ = true := by decide
theorem test_lanes_auipc : lanesOf 0x02883197#32 2 ⟨1, 3, 3⟩ ⟨5, 0, 0x02883000⟩ ⟨0, 0, 0⟩ = true := by decide
theorem test_lanes_bne : lanesOf 0xfe0796e3#32 3 ⟨1, 15, 15⟩ ⟨1, 0, 0⟩ ⟨6, 0, 0xffffffec⟩ = true := by decide
theorem test_lanes_sw : lanesOf 0x18a12023#32 2 ⟨1, 10, 10⟩ ⟨3, 2, 0x180⟩ ⟨0, 0, 0⟩ = true := by decide
theorem test_lanes_jal : lanesOf 0x8000006f#32 2 ⟨1, 0, 0⟩ ⟨6, 0, 0xfff00000⟩ ⟨0, 0, 0⟩ = true := by decide
theorem test_lanes_srai : lanesOf 0x41f5d513#32 3 ⟨1, 10, 10⟩ ⟨1, 11, 11⟩ ⟨4, 0, 31⟩ = true := by decide
theorem test_lanes_lh : lanesOf 0x80011283#32 2 ⟨1, 5, 5⟩ ⟨3, 2, 0xfffff800⟩ ⟨0, 0, 0⟩ = true := by decide
theorem test_lanes_ecall : lanesOf 0x00000073#32 0 ⟨0, 0, 0⟩ ⟨0, 0, 0⟩ ⟨0, 0, 0⟩ = true := by decide
theorem test_lanes_error : lanesOf 0x0ff0000f#32 0 ⟨0, 0, 0⟩ ⟨0, 0, 0⟩ ⟨0, 0, 0⟩ = true := by decide

/-! ### The pseudo forms and the edges of rendering (vectors 3.6, 3.7, 3.10) -/

theorem test_text_nop : decodesTo 0x00050513#32 19 [.reg 10, .reg 10, .imm 0] true "nop" = true := by decide
theorem test_text_mv : decodesTo 0x00058513#32 19 [.reg 10, .reg 11, .imm 0] true "mv a0, a1" = true := by decide
theorem test_text_beq_same :
    decodesTo 0xfe000ce3#32 5 [.reg 0, .reg 0, .jOffset (-8)] true "beq $-0x8" = true := by decide
theorem test_text_sll_nop : decodesTo 0x00051533#32 30 [.reg 10, .reg 10, .reg 0] true "nop" = true := by decide
theorem test_text_slli_zero :
    decodesTo 0x00051513#32 25 [.reg 10, .reg 10, .shift 0] true "slli a0, a0, 0x0" = true := by decide
theorem test_text_zero_offset : decodesTo 0x00012503#32 13 [.reg 10, .baseOffset 2 0] true "lw a0, (sp)" = true := by decide
theorem test_text_lower_case :
    decodesTo 0x000ab537#32 1 [.reg 10, .longImm 0x000ab000] true "lui a0, 0xab" = true := by decide
/-- A power-up register with status OK, tag ADD and an unassigned spec code: no text (item I11, log 14). -/
theorem test_text_none_for_unassigned_spec : render ⟨1, 0, 2, 0x00c58533, 28, 3, 12, 2, true⟩ = none := by decide
theorem test_text_none_at_reset : render State.reset.result = none := by decide

/-! ### `Walk` (R156): skip one unit after a 16-bit unit, never present a trailing odd byte -/

theorem test_walk_two_steps :
    ((walk [0x01, 0x00, 0x13, 0x00, 0x00, 0x00, 0x7f] State.reset).1.map fun e => (e.cur, e.result.status, e.result.units)) =
      [(0, 3, 1), (1, 1, 2), (3, 2, 0)] := by decide

/-! ### Witnesses: for every statement with hypotheses, a state and operands that meet them together -/

theorem witness_UpperAndJumpLanes : (0x1ffffe#21).getLsbD 0 = false := by decide
theorem witness_BranchLanes : (0x1000#13).getLsbD 0 = false ∧
    Instr.bgeu 0 31 0x1000 ∈ [Instr.beq 0 31 0x1000, .bne 0 31 0x1000, .blt 0 31 0x1000, .bge 0 31 0x1000,
      .bltu 0 31 0x1000, .bgeu 0 31 0x1000] := by decide
theorem witness_LoadStoreLanes :
    Instr.lhu 31 0 0x800 ∈ [Instr.lb 31 0 0x800, .lh 31 0 0x800, .lw 31 0 0x800, .lbu 31 0 0x800, .lhu 31 0 0x800] ∧
    Instr.sw 31 0 0x800 ∈ [Instr.sb 31 0 0x800, .sh 31 0 0x800, .sw 31 0 0x800] := by decide
theorem witness_AluImmLanes :
    Instr.sltiu 1 2 0xfff ∈ [Instr.addi 1 2 0xfff, .slti 1 2 0xfff, .sltiu 1 2 0xfff, .xori 1 2 0xfff, .ori 1 2 0xfff,
      .andi 1 2 0xfff] ∧
    Instr.slli 1 2 31 0x7f ∈ [Instr.slli 1 2 31 0x7f, .srli 1 2 31, .srai 1 2 31] := by decide
theorem witness_AluRegLanes :
    Instr.and 1 2 3 0x7f ∈ [Instr.add 1 2 3, .sub 1 2 3, .sll 1 2 3 0x7f, .slt 1 2 3 0x7f, .sltu 1 2 3 0x7f,
      .xor 1 2 3 0x7f, .srl 1 2 3, .sra 1 2 3, .or 1 2 3 0x7f, .and 1 2 3 0x7f] := by decide
theorem witness_SystemLanes : Instr.ebreak 0x1fff ∈ [Instr.ecall 0x1fff, .ebreak 0x1fff] := by decide

theorem witness_DecodeOfEncode : (Instr.bgeu 31 31 0x1ffe).WellFormed = true := by decide
theorem witness_EncodeOfDecode : decodeUnits (some 0x9533) (some 0x02c5) = .instr (.sll 10 11 12 1) := by decide
/-- A word an OK row covers, and one it does not cover. -/
theorem witness_MaskMatchDecidesDecode :
    (∃ row ∈ opcodeTable, row.result = .ok .srai ⟨.rd, .rs1, .shamt⟩ ∧ row.covers 0x41f5d513#32 = true ∧
      row.covers 0xc015d513#32 = false) ∧
    (presented 0x41f5d513#32).Presents 0x41f5d513#32 ∧ (presented 0xc015d513#32).Presents 0xc015d513#32 :=
  ⟨⟨⟨0xfe00707f#32, 0x40005013#32, .ok .srai ⟨.rd, .rs1, .shamt⟩⟩, by decide, rfl, by decide, by decide⟩,
    ⟨⟨rfl, rfl⟩, rfl, rfl, by decide⟩, ⟨⟨rfl, rfl⟩, rfl, rfl, by decide⟩⟩
theorem witness_PresentedWordRuns :
    decodeTableWord 32 0x00100073 = some (.ebreak 0) ∧ decodeTableWord 32 0x00200073 = none ∧
      decodeTableWord 16 0xffff0013 = some (.addi 0 0 0) := by decide
theorem witness_StepRunsDecodedInstruction :
    (presented 0x00c58533#32).AtDecode ∧
      decodeUnits (presented 0x00c58533#32).ports.unit0 (presented 0x00c58533#32).ports.unit1 = .instr (.add 10 11 12) :=
  ⟨⟨rfl, rfl⟩, by decide⟩
theorem witness_EncodedInstructionRuns :
    (Instr.jal 31 0x100000).WellFormed = true ∧
      (presented (encode (.jal 31 0x100000))).Presents (encode (.jal 31 0x100000)) :=
  ⟨rfl, ⟨rfl, rfl⟩, rfl, rfl, by decide⟩
theorem witness_ResetWinsOverRequest :
    (State.reset.drive { presentWord 0x13#32 with rst := true }).ports.rst = true := rfl
theorem witness_IdleHolds : State.reset.ports.rst = false ∧ State.reset.ports.req = false := ⟨rfl, rfl⟩
/-- Also for DecodeIsTotal, DecodesAreIndependent and RenderDefinedExactlyOnOk: a decode edge, and its next state. -/
theorem witness_EveryDecodeEdgeWrites :
    (presented 0x13#32).AtDecode ∧ (presented 0x13#32).Completes ∧
      ((presented 0x13#32).latch junk).ports = (presented 0x13#32).ports :=
  ⟨⟨rfl, rfl⟩, ⟨_, rfl⟩, rfl⟩
theorem witness_DecodeIsTotal : (unitsAt none none).AtDecode := ⟨rfl, rfl⟩
theorem witness_DecodesAreIndependent :
    (unitsAt (some 0xffff) none).AtDecode ∧
      ((unitsAt (some 0xffff) none).latch junk).ports = (unitsAt (some 0xffff) none).ports := ⟨⟨rfl, rfl⟩, rfl⟩

/-! One decode edge for each row of R140, each beside the row before it. -/

theorem witness_ErrorPriority_noUnit0 :
    (unitsAt none (some 0)).AtDecode ∧ (unitsAt none (some 0)).ports.cu0Avail = false := ⟨⟨rfl, rfl⟩, rfl⟩
theorem witness_ErrorPriority_compressed :
    (unitsAt (some 0x001e) none).AtDecode ∧ (unitsAt (some 0x001e) none).ports.cu0Avail = true ∧
      (unitsAt (some 0x001e) none).ports.cu0.extractLsb' 0 2 ≠ 0b11#2 := ⟨⟨rfl, rfl⟩, rfl, by decide⟩
theorem witness_ErrorPriority_wide :
    (unitsAt (some 0x001f) none).AtDecode ∧ (unitsAt (some 0x001f) none).ports.cu0Avail = true ∧
      (unitsAt (some 0x001f) none).ports.cu0.extractLsb' 0 2 = 0b11#2 ∧
      (unitsAt (some 0x001f) none).ports.cu0.extractLsb' 2 3 = 0b111#3 := ⟨⟨rfl, rfl⟩, rfl, by decide, by decide⟩
theorem witness_ErrorPriority_noUnit1 :
    (unitsAt (some 0x001b) none).AtDecode ∧ (unitsAt (some 0x001b) none).ports.cu0Avail = true ∧
      (unitsAt (some 0x001b) none).ports.cu0.extractLsb' 0 2 = 0b11#2 ∧
      (unitsAt (some 0x001b) none).ports.cu0.extractLsb' 2 3 ≠ 0b111#3 ∧
      (unitsAt (some 0x001b) none).ports.cu1Avail = false := ⟨⟨rfl, rfl⟩, rfl, by decide, by decide, rfl⟩
theorem witness_ErrorPriority_fence :
    (presented 0x0000000f#32).AtDecode ∧ (presented 0x0000000f#32).ports.cu0Avail = true ∧
      (presented 0x0000000f#32).ports.cu0.extractLsb' 0 2 = 0b11#2 ∧
      (presented 0x0000000f#32).ports.cu0.extractLsb' 2 3 ≠ 0b111#3 ∧
      (presented 0x0000000f#32).ports.cu1Avail = true ∧ (0x0000000f#32).extractLsb' 0 7 = 0b0001111#7 :=
  ⟨⟨rfl, rfl⟩, rfl, by decide, by decide, rfl, by decide⟩
theorem witness_ErrorPriority_invalid :
    (presented 0x00200073#32).Presents 0x00200073#32 ∧
      (presented 0x00200073#32).ports.cu0.extractLsb' 0 2 = 0b11#2 ∧
      (presented 0x00200073#32).ports.cu0.extractLsb' 2 3 ≠ 0b111#3 ∧
      (0x00200073#32).extractLsb' 0 7 ≠ 0b0001111#7 ∧ ∀ row ∈ opcodeTable, row.covers 0x00200073#32 = false :=
  ⟨⟨⟨rfl, rfl⟩, rfl, rfl, by decide⟩, by decide, by decide, by decide, by decide⟩
theorem witness_ErrorPriority_ok :
    (presented 0x00100073#32).Presents 0x00100073#32 ∧
      (presented 0x00100073#32).ports.cu0.extractLsb' 0 2 = 0b11#2 ∧
      (presented 0x00100073#32).ports.cu0.extractLsb' 2 3 ≠ 0b111#3 ∧
      (0x00100073#32).extractLsb' 0 7 ≠ 0b0001111#7 ∧ ∃ row ∈ opcodeTable, row.covers 0x00100073#32 = true :=
  ⟨⟨⟨rfl, rfl⟩, rfl, rfl, by decide⟩, by decide, by decide, by decide, by decide⟩

/-- The three ways a port is not read: no unit 0, a 16-bit unit 0, a wide unit 0; the unread ports differ. -/
theorem witness_UnreadInputsHaveNoEffect :
    let a (cu0 : CodeUnit) (avail0 : Bool) (cu1 : CodeUnit) (avail1 : Bool) : State :=
      State.reset.drive ⟨false, true, cu0, avail0, cu1, avail1⟩
    ((a 1 false 2 true).AtDecode ∧ (a 3 false 4 false).AtDecode ∧
      (a 1 false 2 true).ports.cu0Avail = (a 3 false 4 false).ports.cu0Avail ∧
      (a 1 false 2 true).ports.cu0Avail = false) ∧
    ((a 0x1e true 2 true).ports.cu0 = (a 0x1e true 4 false).ports.cu0 ∧
      (a 0x1e true 2 true).ports.cu0.extractLsb' 0 2 ≠ 0b11#2) ∧
    ((a 0x1f true 2 true).ports.cu0 = (a 0x1f true 4 false).ports.cu0 ∧
      (a 0x1f true 2 true).ports.cu0.extractLsb' 2 3 = 0b111#3) :=
  ⟨⟨⟨rfl, rfl⟩, ⟨rfl, rfl⟩, rfl, rfl⟩, ⟨rfl, by decide⟩, ⟨rfl, by decide⟩⟩

/-- One word for each clause, at the edge of its range: funct3 011 of the branches, 111 of the loads, 011 and 111 of the
stores, funct7 0000001 and 0100001, SYSTEM sub-key 0x002. -/
theorem witness_UnmatchedSubKeysAreInvalid :
    ((presented 0x00b53463#32).Presents 0x00b53463#32 ∧ (0x00b53463#32).extractLsb' 0 7 = 0b1100011#7 ∧
      (0x00b53463#32).extractLsb' 12 3 = 0b011#3) ∧
    ((presented 0x01017503#32).Presents 0x01017503#32 ∧ (0x01017503#32).extractLsb' 0 7 = 0b0000011#7 ∧
      (0x01017503#32).extractLsb' 12 3 = 0b111#3) ∧
    ((presented 0x18a13023#32).Presents 0x18a13023#32 ∧ (0x18a13023#32).extractLsb' 0 7 = 0b0100011#7 ∧
      0b011#3 ≤ (0x18a13023#32).extractLsb' 12 3 ∧ 0b011#3 ≤ (0x18a17023#32).extractLsb' 12 3) ∧
    ((presented 0x4215d513#32).Presents 0x4215d513#32 ∧ (0x4215d513#32).extractLsb' 0 7 = 0b0010011#7 ∧
      (0x4215d513#32).extractLsb' 12 3 = 0b101#3 ∧ (0x4215d513#32).extractLsb' 25 7 = 0b0100001#7) ∧
    ((presented 0x02c58533#32).Presents 0x02c58533#32 ∧ (0x02c58533#32).extractLsb' 0 7 = 0b0110011#7 ∧
      (0x02c58533#32).extractLsb' 12 3 = 0b000#3 ∧ (0x02c58533#32).extractLsb' 25 7 = 0b0000001#7) ∧
    ((presented 0x00200073#32).Presents 0x00200073#32 ∧ (0x00200073#32).extractLsb' 0 7 = 0b1110011#7 ∧
      (0x00200073#32).extractLsb' 20 12 = 0x002#12) := by
  refine ⟨⟨⟨⟨rfl, rfl⟩, rfl, rfl, ?_⟩, ?_⟩, ⟨⟨⟨rfl, rfl⟩, rfl, rfl, ?_⟩, ?_⟩, ⟨⟨⟨rfl, rfl⟩, rfl, rfl, ?_⟩, ?_⟩,
    ⟨⟨⟨rfl, rfl⟩, rfl, rfl, ?_⟩, ?_⟩, ⟨⟨⟨rfl, rfl⟩, rfl, rfl, ?_⟩, ?_⟩, ⟨⟨⟨rfl, rfl⟩, rfl, rfl, ?_⟩, ?_⟩⟩ <;> decide
theorem witness_UnnamedMajorOpcodesAreInvalid :
    (presented 0x0000007b#32).Presents 0x0000007b#32 ∧ (0x0000007b#32).extractLsb' 0 2 = 0b11#2 ∧
      (0x0000007b#32).extractLsb' 2 3 ≠ 0b111#3 ∧
      (0x0000007b#32).extractLsb' 0 7 ∉ [0b0110111#7, 0b0010111#7, 0b1101111#7, 0b1100111#7, 0b1100011#7, 0b0000011#7,
        0b0100011#7, 0b0010011#7, 0b0110011#7, 0b0001111#7, 0b1110011#7] :=
  ⟨⟨⟨rfl, rfl⟩, rfl, rfl, by decide⟩, by decide, by decide, by decide⟩
theorem witness_FenceGroupIsUnsupported :
    (presented 0xffffff8f#32).Presents 0xffffff8f#32 ∧ (0xffffff8f#32).extractLsb' 0 7 = 0b0001111#7 :=
  ⟨⟨⟨rfl, rfl⟩, rfl, rfl, by decide⟩, by decide⟩
/-- An OK decode; then a word of each alternative: LD, LWU, SD, and the two major opcodes of the rule. -/
theorem witness_DeclaredTagsAreNeverProduced :
    ((presented 0x00100073#32).AtDecode ∧ ∃ t, step (presented 0x00100073#32) = .next t ∧ t.result.status = 1#3) ∧
    ((presented 0x01013503#32).Presents 0x01013503#32 ∧ (0x01013503#32).extractLsb' 0 7 = 0b0000011#7 ∧
      (0x01013503#32).extractLsb' 12 3 = 0b011#3) ∧
    ((presented 0x01016503#32).Presents 0x01016503#32 ∧ (0x01016503#32).extractLsb' 0 7 = 0b0000011#7 ∧
      (0x01016503#32).extractLsb' 12 3 = 0b110#3) ∧
    ((presented 0x18a13023#32).Presents 0x18a13023#32 ∧ (0x18a13023#32).extractLsb' 0 7 = 0b0100011#7 ∧
      (0x18a13023#32).extractLsb' 12 3 = 0b011#3) ∧
    ((presented 0x0000001b#32).Presents 0x0000001b#32 ∧ (0x0000001b#32).extractLsb' 0 7 = 0b0011011#7) ∧
    ((presented 0x0000003b#32).Presents 0x0000003b#32 ∧ (0x0000003b#32).extractLsb' 0 7 = 0b0111011#7) := by
  refine ⟨⟨⟨rfl, rfl⟩, _, rfl, rfl⟩, ⟨⟨⟨rfl, rfl⟩, rfl, rfl, ?_⟩, ?_⟩, ⟨⟨⟨rfl, rfl⟩, rfl, rfl, ?_⟩, ?_⟩,
    ⟨⟨⟨rfl, rfl⟩, rfl, rfl, ?_⟩, ?_⟩, ⟨⟨⟨rfl, rfl⟩, rfl, rfl, ?_⟩, ?_⟩, ⟨⟨⟨rfl, rfl⟩, rfl, rfl, ?_⟩, ?_⟩⟩ <;> decide

/-- SLL with funct7 0000001 and with funct7 0000000: two words that differ in don't-care bits only. -/
theorem witness_DontCareBitsKeepDecodeAndText :
    (presented 0x02c59533#32).Presents 0x02c59533#32 ∧ (presented 0x00c59533#32).Presents 0x00c59533#32 ∧
      (∃ t, step (presented 0x02c59533#32) = .next t ∧ t.result.status = 1#3 ∧ t.result.opc = Opcode.sll.code) ∧
      0x02c59533#32 &&& ~~~ dontCareMask .sll = 0x00c59533#32 &&& ~~~ dontCareMask .sll :=
  ⟨⟨⟨rfl, rfl⟩, rfl, rfl, by decide⟩, ⟨⟨rfl, rfl⟩, rfl, rfl, by decide⟩, ⟨_, rfl, rfl, by decide⟩, by decide⟩
/-- A word of each clause whose flag is 0, and one whose flag is 1. -/
theorem witness_WellDefinedFlagRule :
    (∀ w ∈ [0x0000b067#32, 0x02359513#32, 0x02c59533#32, 0x00108073#32], (presented w).Presents w ∧
      ∃ t, step (presented w) = .next t ∧ t.result.status = 1#3 ∧ t.result.wd = false) ∧
    (presented 0x00008067#32).Presents 0x00008067#32 ∧
      ∃ t, step (presented 0x00008067#32) = .next t ∧ t.result.status = 1#3 ∧ t.result.wd = true := by
  refine ⟨?_, ⟨⟨rfl, rfl⟩, rfl, rfl, by decide⟩, _, rfl, rfl, by decide⟩
  simp only [List.forall_mem_cons, List.not_mem_nil, false_implies, implies_true, and_true]
  refine ⟨⟨?_, _, rfl, rfl, ?_⟩, ⟨?_, _, rfl, rfl, ?_⟩, ⟨?_, _, rfl, rfl, ?_⟩, ⟨?_, _, rfl, rfl, ?_⟩⟩ <;>
    first
      | exact ⟨⟨rfl, rfl⟩, rfl, rfl, by decide⟩
      | decide

/-- A good state at a decode edge, and its next state. -/
theorem witness_InvariantKeptByEveryEdge :
    (presented 0x00c58533#32).Inv ∧ ∃ t, step (presented 0x00c58533#32) = .next t := by
  refine ⟨?_, _, rfl⟩
  unfold State.Inv ResultReg.Legal ResultReg.SelfConsistent ResultReg.PrefixForm
  decide
/-- A reset edge and a decode edge, each over a register no decode leaves. -/
theorem witness_OneEdgeEstablishesInvariant :
    (let s : State := { result := junk, inputs := [.resetEdge] };
      (s.ports.rst = true ∨ s.ports.req = true) ∧ ∃ t, step s = .next t) ∧
    (let s : State := { result := junk, inputs := [presentWord 0x13#32] };
      (s.ports.rst = true ∨ s.ports.req = true) ∧ ∃ t, step s = .next t ∧ t.result.status = 1#3) :=
  ⟨⟨.inl rfl, _, rfl⟩, ⟨.inr rfl, _, rfl, rfl⟩⟩
theorem witness_FirstDecodeRemovesThePowerUpDraw : (presentWord 0x00c58533#32).req = true := rfl

theorem witness_LittleEndianStream :
    ([0x13, 0x06, 0xc6, 0xfb] : List Byte)[2 * 1]? = some 0xc6 ∧
      ([0x13, 0x06, 0xc6, 0xfb] : List Byte)[2 * 1 + 1]? = some 0xfb := by decide
/-- The lowest and the highest bit of each range. -/
theorem witness_FieldExtractionRoundTrip :
    FieldSpec.imm20J ∈ [FieldSpec.imm12I, .imm12S, .imm12B, .imm20J] ∧
      FieldSpec.shamt ∈ [FieldSpec.rs1, .rs2, .rd, .shamt] ∧
      (∀ i ∈ [12, 31], 12 ≤ i ∧ i < 32) ∧ (∀ i ∈ [13, 31], 13 ≤ i ∧ i < 32) ∧ (∀ i ∈ [21, 31], 21 ≤ i ∧ i < 32) ∧
      (∀ i ∈ [5, 31], 5 ≤ i) ∧ (∀ i ∈ [0, 11], i < 12) := by decide

/-- An OK and an error. -/
theorem witness_RenderDefinedExactlyOnOk :
    (presented 0x13#32).AtDecode ∧ (∃ t, step (presented 0x13#32) = .next t ∧ t.result.status = 1#3) ∧
      (presented 0x0f#32).AtDecode ∧ ∃ t, step (presented 0x0f#32) = .next t ∧ t.result.status = 3#3 :=
  ⟨⟨rfl, rfl⟩, ⟨_, rfl, rfl⟩, ⟨rfl, rfl⟩, ⟨_, rfl, rfl⟩⟩
theorem witness_AddiZeroRendersNopOrMv : (0#5 : RegIndex) ≠ 10#5 := by decide
theorem witness_BeqAndSllPseudoForms : (0x1ff8#13).getLsbD 0 = false := by decide
theorem witness_GenericTextOfAluAndJumpForms :
    (0x1000#13).getLsbD 0 = false ∧ (0x100000#21).getLsbD 0 = false ∧ (10#5 : RegIndex) ≠ 11#5 ∧ 0x800#12 ≠ 0#12 ∧
      ¬ ((10#5 : RegIndex) = 11#5 ∧ (0#5 : RegIndex) = 0#5) := by decide
theorem witness_RegisterNamesFollowTheTable : 2 < 3 ∧ 1 < 2 ∧ 7 < 8 ∧ 9 < 10 ∧ 3 < 4 := by decide
theorem witness_HexNumeralsReadBack : 0xffffffff < 2 ^ 32 ∧ 0xffffffff ≠ 0 := by decide
/-- A trace of two entries, the first and the last of it. -/
theorem witness_WalkFollowsItsRule : (walk [0x01, 0x00] State.reset).1.length = 2 := by decide

end Sys2Proof.Tests
end

section
/-! PROOFS. The decoder over a whole word: its eleven groups, and the encoder gives back the word it has read. -/

namespace Sys2Proof

/-- The major opcodes of the eleven groups (R58). -/
def groupMajors : List (BitVec 7) :=
  [0b0110111#7, 0b0010111#7, 0b1101111#7, 0b1100111#7, 0b1100011#7, 0b0000011#7, 0b0100011#7, 0b0010011#7,
    0b0110011#7, 0b0001111#7, 0b1110011#7]

theorem decodeWord_of_no_group {w : Word} (h : majorOf w ∉ groupMajors) : decodeWord w = none := by
  simp only [groupMajors, List.mem_cons, List.not_mem_nil, not_or] at h
  simp only [decodeWord, h, if_false]

/-- An instruction read from a word encodes to that word (R27), and is well formed. -/
theorem encode_decodeWord {w : Word} {i : Instr} (hi : decodeWord w = some i) :
    encode i = w ∧ i.WellFormed = true := by
  by_cases hw : majorOf w ∈ groupMajors
  · simp only [groupMajors, List.mem_cons, List.not_mem_nil, or_false] at hw
    unfold decodeWord at hi
    rcases hw with h | h | h | h | h | h | h | h | h | h | h <;> rw [h] at hi
    · cases hi; exact ⟨(congrArg _ h.symm).trans (packU_fields w), rfl⟩
    · cases hi; exact ⟨(congrArg _ h.symm).trans (packU_fields w), rfl⟩
    · cases hi; exact ⟨(congrArg _ h.symm).trans (packJ_fields w),
        by simp only [Instr.WellFormed, immJOf_bit0, Bool.not_false]⟩
    · cases hi; exact ⟨(congrArg _ h.symm).trans (packI_fields w), rfl⟩
    · exact encode_decodeBranch h hi
    · exact encode_decodeLoad h hi
    · exact encode_decodeStore h hi
    · exact encode_decodeAluImm h hi
    · exact encode_decodeAluReg h hi
    · cases hi; exact ⟨(congrArg _ h.symm).trans (packFence_fields w), rfl⟩
    · exact encode_decodeSystem h hi
  · rw [decodeWord_of_no_group hw] at hi
    cases hi

end Sys2Proof
end

section
/-! PROOFS. The dispatch table against the decoder's tree: `Dispatch` (R58), which looks a word up in the mask-and-match
table, and `decodeWord`, which branches on its fields, find the same instruction. The key is that every row's mask keeps
the major opcode, so that a word is looked up among the rows of its own group only. -/

namespace Sys2Proof.Machine

/-! ### What an instruction is in the table -/

/-- What the opcode table reports for an instruction. The constructors of `Instr` stand in the order of its rows; that
each meaning latches this result is `exec_eq_latch`. -/
def dispatchedOf (i : Instr) : Dispatched := ((opcodeTable[i.ctorIdx]?).map TableRow.result).getD .invalid

/-- What `Decode` makes of a dispatch over the word it has read (R39). -/
def dispatchedResult (w : Word) : Dispatched → ResultReg
  | .ok opc layout => okResult w opc layout (wellDefined w opc)
  | .fail kind reason => errorResult kind reason 2#2 w

theorem decodeWordResult_eq (w : Word) : decodeWordResult w = dispatchedResult w (dispatchWord w) := rfl

/-- The register an instruction's meaning latches. -/
def instrResult (i : Instr) : ResultReg := dispatchedResult (encode i) (dispatchedOf i)

theorem latchOk_eq_latch {w : Word} {opc : Opcode} {wd : Bool} (h : wd = wellDefined w opc) (s : State) (l : Layout) :
    s.latchOk w opc l wd = s.latch (dispatchedResult w (.ok opc l)) := by
  rw [h]; rfl

/-- Every meaning latches its row's result over its own word; the flag of R62 is read back from that word. -/
theorem exec_eq_latch (i : Instr) (s : State) : exec i s = .next (s.latch (instrResult i)) := by
  cases i
  case fence rest => rfl
  all_goals exact congrArg Host.Outcome.next (latchOk_eq_latch (by simp [encode, wellDefined]) s _)

/-! ### The groups of the table -/

theorem majorOf_of_covers {row : TableRow} (hrow : row ∈ opcodeTable) {w : Word} (h : row.covers w = true) :
    majorOf w = majorOf row.pattern := by
  have hkeeps : ∀ r ∈ opcodeTable, r.mask &&& 0x7f#32 = 0x7f#32 := by decide
  have hcov : w &&& row.mask = row.pattern := by simpa [TableRow.covers] using h
  apply eq_of_bits
  intro k hk
  have hbit : (row.mask &&& 0x7f#32).getLsbD k = true := by
    rw [hkeeps row hrow]; interval_cases k <;> rfl
  rw [BitVec.getLsbD_and, Bool.and_eq_true] at hbit
  rw [getLsbD_majorOf, getLsbD_majorOf, and_eq_bits hcov k hbit.1]

/-- The rows of one group: those whose pattern has this major opcode (R58). -/
def groupRows (major : BitVec 7) : List TableRow := opcodeTable.filter (majorOf ·.pattern == major)

/-- `Dispatch` looks at the rows of the word's own group only (R58). -/
theorem dispatchWord_eq_group {w : Word} {major : BitVec 7} (hm : majorOf w = major) :
    dispatchWord w = (((groupRows major).find? (·.covers w)).map TableRow.result).getD .invalid := by
  have hfind : opcodeTable.find? (·.covers w) = (groupRows major).find? (·.covers w) := by
    rw [groupRows, List.find?_filter]
    apply List.find?_congr
    intro row hrow
    cases hc : row.covers w
    · simp
    · simp [← hm, majorOf_of_covers hrow hc]
  rw [← hfind, dispatchWord]
  cases opcodeTable.find? (·.covers w) <;> rfl

/-- `Dispatch` of a word whose group is one row keyed by the major opcode alone. -/
theorem dispatchWord_of_single {w p : Word} {major : BitVec 7} {result : Dispatched} (hm : majorOf w = major)
    (hrows : groupRows major = [⟨0x7f#32, p, result⟩]) (hp : p &&& 0x7f#32 = p) (hmp : majorOf p = major) :
    dispatchWord w = result := by
  rw [dispatchWord_eq_group hm, hrows]
  simp [covers_major _ _ _ hp, hm, hmp]

/-! ### One group at a time: the table's rows and the decoder's branches, at each value of funct3 -/

theorem funct3_cases : ∀ f : BitVec 3, f = 0b000#3 ∨ f = 0b001#3 ∨ f = 0b010#3 ∨ f = 0b011#3 ∨
    f = 0b100#3 ∨ f = 0b101#3 ∨ f = 0b110#3 ∨ f = 0b111#3 := by decide

theorem dispatchWord_branch {w : Word} (hm : majorOf w = 0b1100011#7) :
    dispatchWord w = (decodeBranch w).elim .invalid dispatchedOf := by
  rw [dispatchWord_eq_group hm, show groupRows 0b1100011#7 = tableUpperBranches.drop 4 from rfl]
  simp only [tableUpperBranches, List.drop, List.find?, covers_funct3, BitVec.reduceAnd, hm]
  rcases funct3_cases (funct3Of w) with h | h | h | h | h | h | h | h
  all_goals simp only [decodeBranch, h]; rfl

theorem dispatchWord_load {w : Word} (hm : majorOf w = 0b0000011#7) :
    dispatchWord w = (decodeLoad w).elim .invalid dispatchedOf := by
  rw [dispatchWord_eq_group hm, show groupRows 0b0000011#7 = tableLoadsStores.take 5 from rfl]
  simp only [tableLoadsStores, List.take, List.find?, covers_funct3, BitVec.reduceAnd, hm]
  rcases funct3_cases (funct3Of w) with h | h | h | h | h | h | h | h
  all_goals simp only [decodeLoad, h]; rfl

theorem dispatchWord_store {w : Word} (hm : majorOf w = 0b0100011#7) :
    dispatchWord w = (decodeStore w).elim .invalid dispatchedOf := by
  rw [dispatchWord_eq_group hm, show groupRows 0b0100011#7 = tableLoadsStores.drop 5 from rfl]
  simp only [tableLoadsStores, List.drop, List.find?, covers_funct3, BitVec.reduceAnd, hm]
  rcases funct3_cases (funct3Of w) with h | h | h | h | h | h | h | h
  all_goals simp only [decodeStore, h]; rfl

theorem dispatchWord_aluImm {w : Word} (hm : majorOf w = 0b0010011#7) :
    dispatchWord w = (decodeAluImm w).elim .invalid dispatchedOf := by
  rw [dispatchWord_eq_group hm, show groupRows 0b0010011#7 = tableAluImm from rfl]
  simp only [tableAluImm, List.find?, covers_funct3, covers_funct7, BitVec.reduceAnd, hm]
  rcases funct3_cases (funct3Of w) with h | h | h | h | h | h | h | h
  case inr.inr.inr.inr.inr.inl =>
    -- funct3 101, SRLI and SRAI: funct7 selects
    by_cases h0 : funct7Of w = 0b0000000#7
    · simp only [decodeAluImm, h, h0]; rfl
    by_cases h32 : funct7Of w = 0b0100000#7
    · simp only [decodeAluImm, h, h32]; rfl
    simp +decide [decodeAluImm, h, h0, h32, show funct7Of 0x00005013#32 = 0b0000000#7 from rfl,
      show funct7Of 0x40005013#32 = 0b0100000#7 from rfl]
  all_goals simp only [decodeAluImm, h]; rfl

theorem dispatchWord_aluReg {w : Word} (hm : majorOf w = 0b0110011#7) :
    dispatchWord w = (decodeAluReg w).elim .invalid dispatchedOf := by
  rw [dispatchWord_eq_group hm, show groupRows 0b0110011#7 = tableAluReg from rfl]
  simp only [tableAluReg, List.find?, covers_funct3, covers_funct7, BitVec.reduceAnd, hm]
  rcases funct3_cases (funct3Of w) with h | h | h | h | h | h | h | h
  case inl | inr.inr.inr.inr.inr.inl =>
    -- funct3 000, ADD and SUB, and funct3 101, SRL and SRA: funct7 selects
    by_cases h0 : funct7Of w = 0b0000000#7
    · simp only [decodeAluReg, h, h0]; rfl
    by_cases h32 : funct7Of w = 0b0100000#7
    · simp only [decodeAluReg, h, h32]; rfl
    simp +decide [decodeAluReg, h, h0, h32, show funct7Of 0x00000033#32 = 0b0000000#7 from rfl,
      show funct7Of 0x40000033#32 = 0b0100000#7 from rfl, show funct7Of 0x00005033#32 = 0b0000000#7 from rfl,
      show funct7Of 0x40005033#32 = 0b0100000#7 from rfl]
  all_goals simp only [decodeAluReg, h]; rfl

theorem dispatchWord_system {w : Word} (hm : majorOf w = 0b1110011#7) :
    dispatchWord w = (decodeSystem w).elim .invalid dispatchedOf := by
  rw [dispatchWord_eq_group hm, show groupRows 0b1110011#7 = tableFenceSystem.drop 1 from rfl]
  simp only [tableFenceSystem, List.drop, List.find?, covers_system, BitVec.reduceAnd, hm]
  by_cases h0 : systemKeyOf w = 0x000#12
  · simp only [decodeSystem, h0]; rfl
  by_cases h1 : systemKeyOf w = 0x001#12
  · simp only [decodeSystem, h1]; rfl
  simp +decide [decodeSystem, h0, h1, show systemKeyOf 0x00000073#32 = 0x000#12 from rfl,
    show systemKeyOf 0x00100073#32 = 0x001#12 from rfl]

/-! ### The eleven groups together -/

/-- A word of no group has no row (R58, R59). -/
theorem dispatchWord_of_no_group {w : Word} (h : majorOf w ∉ groupMajors) : dispatchWord w = .invalid := by
  have hmajor : ∀ row ∈ opcodeTable, majorOf row.pattern ∈ groupMajors := by decide
  have hrows : groupRows (majorOf w) = [] :=
    List.filter_eq_nil_iff.mpr fun row hrow heq => h (beq_iff_eq.mp heq ▸ hmajor row hrow)
  rw [dispatchWord_eq_group rfl, hrows]
  rfl

/-- `Dispatch` over the table and the decoder's tree find the same instruction in every word (R58). -/
theorem dispatchWord_eq_decodeWord (w : Word) : dispatchWord w = (decodeWord w).elim .invalid dispatchedOf := by
  by_cases hw : majorOf w ∈ groupMajors
  · simp only [groupMajors, List.mem_cons, List.not_mem_nil, or_false] at hw
    unfold decodeWord
    rcases hw with h | h | h | h | h | h | h | h | h | h | h <;> rw [h]
    · exact dispatchWord_of_single h rfl rfl rfl
    · exact dispatchWord_of_single h rfl rfl rfl
    · exact dispatchWord_of_single h rfl rfl rfl
    · exact dispatchWord_of_single h rfl rfl rfl
    · exact dispatchWord_branch h
    · exact dispatchWord_load h
    · exact dispatchWord_store h
    · exact dispatchWord_aluImm h
    · exact dispatchWord_aluReg h
    · exact dispatchWord_of_single h rfl rfl rfl
    · exact dispatchWord_system h
  · rw [dispatchWord_of_no_group hw, decodeWord_of_no_group hw]
    rfl

end Sys2Proof.Machine
end

section
/-! PROOFS. The machine's step against the register transfer of R21 with the `Decode` of R39. -/

namespace Sys2Proof.Machine

/-- The register a decode edge latches for what the decoder reads. -/
def decodedResult : Decoded → ResultReg
  | .instr i => instrResult i
  | .reject e => rejectResult e

/-- `Decode` after both units are read (R39) is what the decoder's path latches for the word. -/
theorem decodeWordResult_eq_decodedResult (w : Word) : decodeWordResult w = decodedResult (decodeWhole w) := by
  rw [decodeWordResult_eq, dispatchWord_eq_decodeWord, decodeWhole]
  cases hi : decodeWord w with
  | none => rfl
  | some i =>
    show dispatchedResult w (dispatchedOf i) = dispatchedResult (encode i) (dispatchedOf i)
    rw [(encode_decodeWord hi).1]

/-- `Decode` of the four stream inputs (R39) is what the decoder's path latches for the units they present. -/
theorem decodeRegister_eq_decodedResult (p : PortSample) :
    decodeRegister p.cu0 p.cu0Avail p.cu1 p.cu1Avail = decodedResult (decodeUnits p.unit0 p.unit1) := by
  unfold decodeRegister PortSample.unit0 PortSample.unit1
  cases p.cu0Avail with
  | false => rfl
  | true =>
    cases hl : lenClass p.cu0 with
    | compressed16 => simp [decodeUnits_compressed hl, decodedResult, rejectResult]
    | wide48Plus => simp [decodeUnits_wide hl, decodedResult, rejectResult]
    | len32 =>
      cases p.cu1Avail with
      | false => simp [decodeUnits_short hl, decodedResult, rejectResult]
      | true => simp [decodeUnits_whole hl, decodeWordResult_eq_decodedResult]

/-- Settles O23: each of the four edges of `step_edges` latches the register of R21; at a decode edge that is
`decodeRegister_eq_decodedResult`. -/
theorem stepIsTheRegisterTransfer : Obligations.StepIsTheRegisterTransfer := by
  intro s
  unfold registerAfterEdge
  rw [decodeRegister_eq_decodedResult]
  rcases step_edges s with ⟨hr, hs⟩ | ⟨hr, hq, i, hd, hs⟩ | ⟨hr, hq, e, hd, hs⟩ | ⟨hr, hq, hs⟩
  · rw [hs, hr]; rfl
  · rw [hs, hr, hq, hd, exec_eq_latch]; rfl
  · rw [hs, hr, hq, hd]; rfl
  · rw [hs, hr, hq]; rfl

/-- Settles O8: the law of what a meaning can do, with `latch` written out. -/
theorem meaningsWriteOnlyTheRegister : Obligations.MeaningsWriteOnlyTheRegister := exec_latches

/-- Settles O21: of the four edges of a step only the decode that finds an instruction is possible, and it finds `i`. -/
theorem stepRunsDecodedInstruction : Obligations.StepRunsDecodedInstruction := by
  rintro s i ⟨hreq, hrst⟩ hi
  rcases step_edges s with ⟨hr, -⟩ | ⟨-, -, j, hd, hs⟩ | ⟨-, -, e, hd, -⟩ | ⟨-, hq, -⟩
  · simp [hrst] at hr
  · cases hi.symm.trans hd
    exact hs
  · cases hi.symm.trans hd
  · simp [hreq] at hq

/-- A presented word reaches the decoder as its two units. -/
theorem units_of_presents {s : State} {w : Word} (h : s.Presents w) :
    s.ports.unit0 = some (lowUnit w) ∧ s.ports.unit1 = some (highUnit w) := by
  obtain ⟨-, h0, h1, hw⟩ := h
  simp [PortSample.unit0, PortSample.unit1, h0, h1, ← hw]

/-- Settles O22: the word of a well-formed instruction is in the 32-bit class and decodes back to it, so the step
runs it by `stepRunsDecodedInstruction`. -/
theorem encodedInstructionRuns : Obligations.EncodedInstructionRuns := by
  intro s i hwf hp
  obtain ⟨hu0, hu1⟩ := units_of_presents hp
  refine stepRunsDecodedInstruction s i hp.1 ?_
  rw [hu0, hu1, decodeUnits_word (Laws.lenClass_encode i), decodeWhole, Laws.decodeWord_encode i hwf]

end Sys2Proof.Machine
end

section
/-! PROOFS. The invariant of the register (R22): every register that an edge writes is legal and agrees with its
word. -/

namespace Sys2Proof.Machine

/-! ### Errors and OK results -/

theorem statusCode_le (kind : Status) : kind.code ≤ 4#3 := by cases kind <;> decide

theorem statusCode_eq_ok (kind : Status) : kind.code = 1#3 ↔ kind = .ok := by cases kind <;> decide

theorem statusCode_eq_unsupported (kind : Status) : kind.code = 3#3 ↔ kind = .unsupportedEncoding := by
  cases kind <;> decide

theorem ureasonCode_eq_zero (reason : UReason) : reason.code = 0#2 ↔ reason = .none := by cases reason <;> decide

/-- An error result is legal when its kind is no OK and it has a sub-reason exactly when it is unsupported (R19). -/
theorem errorResult_legal {kind : Status} {reason : UReason} {n : BitVec 2} (w : Word) (hk : kind ≠ .ok)
    (hr : reason ≠ .none ↔ kind = .unsupportedEncoding) (hn : n ≤ 2#2) : (errorResult kind reason n w).Legal := by
  refine ⟨statusCode_le kind, ?_, hn, fun h => absurd ((statusCode_eq_ok kind).mp h) hk,
    fun _ => ⟨rfl, rfl, rfl, rfl, rfl⟩, ⟨fun _ => rfl, fun _ => rfl⟩⟩
  rw [errorResult_ureason, errorResult_status, statusCode_eq_unsupported, ← hr, ne_eq, ureasonCode_eq_zero]

/-- An OK result is legal when its tag is one a decode produces and its layout names no operand after a Nothing (R15,
R22). -/
theorem okResult_legal {opc : Opcode} {l : Layout} (w : Word) (wd : Bool) (hopc : Opcode.produced opc.code = true)
    (h01 : l.spec0 = .nothing → l.spec1 = .nothing) (h12 : l.spec1 = .nothing → l.spec2 = .nothing) :
    (okResult w opc l wd).Legal := by
  refine ⟨by simp, by simp, by simp, fun _ => ⟨hopc, rfl⟩, fun h => absurd rfl h, ?_⟩
  simpa [ResultReg.PrefixForm] using ⟨h01, h12⟩

/-! ### What a decode latches -/

theorem rejectResult_legal (e : Reject) : (rejectResult e).Legal := by
  cases e <;> exact errorResult_legal _ (by decide) (by decide) (by decide)

/-- What the opcode table may report: an OK with a produced tag and a layout that names no operand after a Nothing, or
an error that has a sub-reason exactly when it is unsupported. -/
def Dispatched.legal : Dispatched → Bool
  | .ok opc l => Opcode.produced opc.code && decide (l.spec0 = .nothing → l.spec1 = .nothing) &&
      decide (l.spec1 = .nothing → l.spec2 = .nothing)
  | .fail kind reason => kind != .ok && decide (reason ≠ .none ↔ kind = .unsupportedEncoding)

theorem dispatchedResult_legal (w : Word) {d : Dispatched} (h : d.legal = true) : (dispatchedResult w d).Legal := by
  cases d with
  | ok opc l =>
    simp only [Dispatched.legal, Bool.and_eq_true, decide_eq_true_eq] at h
    obtain ⟨⟨hopc, h01⟩, h12⟩ := h
    exact okResult_legal w _ hopc h01 h12
  | fail kind reason =>
    simp only [Dispatched.legal, Bool.and_eq_true, bne_iff_ne, decide_eq_true_eq] at h
    exact errorResult_legal w h.1 h.2 (by decide)

/-- Every dispatch is the result of a row of the table, or InvalidOpcode (R59). -/
theorem dispatchWord_legal (w : Word) : (dispatchWord w).legal = true := by
  have hrows : ∀ row ∈ opcodeTable, row.result.legal = true := by decide
  unfold dispatchWord
  split
  case h_1 row hrow => exact hrows row (List.mem_of_find?_eq_some hrow)
  case h_2 => rfl

theorem decodeWordResult_legal (w : Word) : (decodeWordResult w).Legal :=
  dispatchedResult_legal w (dispatchWord_legal w)

@[simp] theorem decodeWordResult_word (w : Word) : (decodeWordResult w).word = w := by
  rw [decodeWordResult_eq]
  cases dispatchWord w <;> rfl

theorem rejectResult_status_ne_ok (e : Reject) : (rejectResult e).status ≠ 1#3 := by
  cases e <;> simp [rejectResult, Status.code]

/-- A decode reports one of the rejections, or has read both units of a word of the 32-bit class (R39). -/
theorem decodeRegister_cases (cu0 : CodeUnit) (avail0 : Bool) (cu1 : CodeUnit) (avail1 : Bool) :
    (∃ e, decodeRegister cu0 avail0 cu1 avail1 = rejectResult e) ∨
    (avail0 = true ∧ avail1 = true ∧ lenClass cu0 = .len32 ∧
      decodeRegister cu0 avail0 cu1 avail1 = decodeWordResult (wordOfUnits cu0 cu1)) := by
  unfold decodeRegister
  cases avail0 with
  | false => exact .inl ⟨.noUnit0, rfl⟩
  | true =>
    cases lenClass cu0 with
    | compressed16 => exact .inl ⟨.compressed16 cu0, rfl⟩
    | wide48Plus => exact .inl ⟨.wide48Plus cu0, rfl⟩
    | len32 =>
      cases avail1 with
      | false => exact .inl ⟨.noUnit1 cu0, rfl⟩
      | true => exact .inr ⟨rfl, rfl, rfl, rfl⟩

/-- What every decode leaves: the invariant, and after an OK the combined word of two units that were available
(R22). -/
theorem decodeRegister_inv (cu0 : CodeUnit) (avail0 : Bool) (cu1 : CodeUnit) (avail1 : Bool) (rest : List PortSample) :
    (State.mk (decodeRegister cu0 avail0 cu1 avail1) rest).Inv ∧
    ((decodeRegister cu0 avail0 cu1 avail1).status = 1#3 → avail0 = true ∧ avail1 = true ∧
      (decodeRegister cu0 avail0 cu1 avail1).word = wordOfUnits cu0 cu1) := by
  rcases decodeRegister_cases cu0 avail0 cu1 avail1 with ⟨e, he⟩ | ⟨h0, h1, hl, hw⟩
  · rw [he]
    exact ⟨⟨rejectResult_legal e, fun hok => absurd hok (rejectResult_status_ne_ok e)⟩,
      fun hok => absurd hok (rejectResult_status_ne_ok e)⟩
  · rw [hw]
    refine ⟨⟨decodeWordResult_legal _, fun _ => ?_⟩, fun _ => ⟨h0, h1, decodeWordResult_word _⟩⟩
    simp [hl]

/-! ### The edges -/

/-- Settles O38: the reset values of R152 are no OK, have no sub-reason and no spec. -/
theorem invariantAtReset : Obligations.InvariantAtReset :=
  ⟨errorResult_legal (kind := .none) (reason := .none) 0#32 (by decide) (by decide) (by decide),
    fun hok => absurd hok (by decide)⟩

theorem registerAfterEdge_cases (p : PortSample) (r : ResultReg) :
    (p.rst = true ∧ registerAfterEdge p r = .reset) ∨
    (p.rst = false ∧ p.req = true ∧ registerAfterEdge p r = decodeRegister p.cu0 p.cu0Avail p.cu1 p.cu1Avail) ∨
    (p.rst = false ∧ p.req = false ∧ registerAfterEdge p r = r) := by
  unfold registerAfterEdge
  cases p.rst
  · cases p.req
    · exact .inr (.inr ⟨rfl, rfl, rfl⟩)
    · exact .inr (.inl ⟨rfl, rfl, rfl⟩)
  · exact .inl ⟨rfl, rfl⟩

/-- The state after a step, by R21. -/
theorem eq_of_step {s t : State} (h : step s = .next t) :
    t = { result := registerAfterEdge s.ports s.result, inputs := s.inputs.tail } := by
  rw [stepIsTheRegisterTransfer s] at h
  exact (Host.Outcome.next.inj h).symm

/-- Settles O40: a reset edge leaves the reset values and a decode edge what `decodeRegister_inv` says, whatever the
register held. -/
theorem oneEdgeEstablishesInvariant : Obligations.OneEdgeEstablishesInvariant := by
  intro s t hedge hstep
  obtain rfl := eq_of_step hstep
  rcases registerAfterEdge_cases s.ports s.result with ⟨-, he⟩ | ⟨hrst, -, he⟩ | ⟨hrst, hreq, -⟩
  · rw [he]
    exact ⟨invariantAtReset, fun hok => absurd hok (show ResultReg.reset.status ≠ 1#3 by decide)⟩
  · rw [he]
    obtain ⟨hinv, hok⟩ := decodeRegister_inv s.ports.cu0 s.ports.cu0Avail s.ports.cu1 s.ports.cu1Avail s.inputs.tail
    exact ⟨hinv, fun h => ⟨hrst, hok h⟩⟩
  · simp [hrst, hreq] at hedge

/-- Settles O39: a reset or decode edge establishes the invariant by `oneEdgeEstablishesInvariant`, and an idle edge
holds the register. -/
theorem invariantKeptByEveryEdge : Obligations.InvariantKeptByEveryEdge := by
  intro s t hinv hstep
  by_cases hedge : s.ports.rst = true ∨ s.ports.req = true
  · exact (oneEdgeEstablishesInvariant s t hedge hstep).1
  · simp only [not_or, Bool.not_eq_true] at hedge
    have hheld : registerAfterEdge s.ports s.result = s.result := by simp [registerAfterEdge, hedge]
    rw [eq_of_step hstep, hheld]
    exact hinv

end Sys2Proof.Machine
end

section
/-! PROOFS. The round trip of the encoding: through the byte stream in one direction, over every pair of units in the
other. -/

namespace Sys2Proof

/-- The decoder reads an instruction from a whole word exactly when the dispatcher does. -/
theorem decodeWhole_eq_instr {w : Word} {i : Instr} : decodeWhole w = .instr i ↔ decodeWord w = some i := by
  unfold decodeWhole
  cases decodeWord w <;> simp

/-- The units of a well-formed instruction's word decode to it. -/
theorem decodeUnits_encode {i : Instr} (h : i.WellFormed = true) :
    decodeUnits (some (lowUnit (encode i))) (some (highUnit (encode i))) = .instr i := by
  rw [decodeUnits_word (Laws.lenClass_encode i), decodeWhole_eq_instr]
  exact Laws.decodeWord_encode i h

/-- Only the last of the decoder's exits (R39) answers an instruction: the one that reads the whole word. -/
theorem decodeWord_of_decodeUnits {cu0 cu1 : CodeUnit} {i : Instr}
    (h : decodeUnits (some cu0) (some cu1) = .instr i) : decodeWord (wordOfUnits cu0 cu1) = some i := by
  cases hl : lenClass cu0 with
  | compressed16 => cases (decodeUnits_compressed hl _).symm.trans h
  | wide48Plus => cases (decodeUnits_wide hl _).symm.trans h
  | len32 => exact decodeWhole_eq_instr.mp ((decodeUnits_whole hl cu1).symm.trans h)

/-- Settles O16: the bytes of the word assemble into its units, and those decode to the instruction. -/
theorem decodeOfEncode : Obligations.DecodeOfEncode := by
  intro i h
  rw [decodeBytes_word]
  exact decodeUnits_encode h

/-- Settles O17: the dispatcher has read the combined word, and `encode_decodeWord` gives it back. -/
theorem encodeOfDecode : Obligations.EncodeOfDecode :=
  fun _ _ _ h => encode_decodeWord (decodeWord_of_decodeUnits h)

end Sys2Proof
end

section
/-! PROOFS. What a decode edge depends on: the units the decoder reads from the ports, and nothing else. -/

namespace Sys2Proof.Machine

/-- A decode edge latches the result of what the decoder reads from the ports. -/
theorem step_of_atDecode {s : State} (h : s.AtDecode) :
    step s = .next { result := decodedResult (decodeUnits s.ports.unit0 s.ports.unit1), inputs := s.inputs.tail } := by
  obtain ⟨hreq, hrst⟩ := h
  rw [stepIsTheRegisterTransfer, registerAfterEdge, hrst, hreq, decodeRegister_eq_decodedResult]
  rfl

/-- The outputs are a function of the result register alone (R57, R158). -/
theorem outputs_eq_of_result_eq {t t' : State} (h : t.result = t'.result) : t.outputs = t'.outputs := by
  simp only [State.outputs, h]

/-- Two decode edges whose units decode alike end with the same outputs. -/
theorem outputs_eq_of_decodeUnits_eq {s s' : State} (h : s.AtDecode) (h' : s'.AtDecode)
    (hd : decodeUnits s.ports.unit0 s.ports.unit1 = decodeUnits s'.ports.unit0 s'.ports.unit1) :
    ∃ t t', step s = .next t ∧ step s' = .next t' ∧ t.outputs = t'.outputs :=
  ⟨_, _, step_of_atDecode h, step_of_atDecode h', outputs_eq_of_result_eq (congrArg decodedResult hd)⟩

/-- Settles O31: equal ports present equal units, so the two edges decode alike. -/
theorem decodesAreIndependent : Obligations.DecodesAreIndependent := by
  intro s s' h hp
  have h' : s'.AtDecode := by rwa [State.AtDecode, hp]
  exact outputs_eq_of_decodeUnits_eq h h' (by rw [hp])

/-- Unit 0 outside the 32-bit class (R37). -/
theorem lenClass_ne_len32 {cu0 : CodeUnit} (h : cu0.extractLsb' 0 2 ≠ 0b11#2 ∨ cu0.extractLsb' 2 3 = 0b111#3) :
    lenClass cu0 ≠ .len32 := by
  unfold lenClass
  split_ifs with h0 h1
  · decide
  · decide
  · exact absurd h (by simp [h0, h1])

/-- Unit 1 is read in the 32-bit class only (R26). -/
theorem decodeUnits_ignores_unit1 {cu0 : CodeUnit} (h : lenClass cu0 ≠ .len32) (u1 u1' : Option CodeUnit) :
    decodeUnits (some cu0) u1 = decodeUnits (some cu0) u1' := by
  cases hl : lenClass cu0 with
  | compressed16 => rw [decodeUnits_compressed hl, decodeUnits_compressed hl]
  | wide48Plus => rw [decodeUnits_wide hl, decodeUnits_wide hl]
  | len32 => exact absurd hl h

theorem unit0_of_not_avail {p : PortSample} (h : p.cu0Avail = false) : p.unit0 = none := by
  simp [PortSample.unit0, h]

theorem unit0_of_avail {p : PortSample} (h : p.cu0Avail = true) : p.unit0 = some p.cu0 := by
  simp [PortSample.unit0, h]

/-- Settles O30: without unit 0 the decoder reads no other input; with a unit 0 outside the 32-bit class it does not
read unit 1. -/
theorem unreadInputsHaveNoEffect : Obligations.UnreadInputsHaveNoEffect := by
  intro s s' h h' havail hunread
  apply outputs_eq_of_decodeUnits_eq h h'
  cases ha : s.ports.cu0Avail with
  | false => rw [unit0_of_not_avail ha, unit0_of_not_avail (havail ▸ ha), decodeUnits_none, decodeUnits_none]
  | true =>
    obtain ⟨hcu0, hclass⟩ := hunread.resolve_left (by simp [ha])
    rw [unit0_of_avail ha, unit0_of_avail (havail ▸ ha), ← hcu0]
    exact decodeUnits_ignores_unit1 (lenClass_ne_len32 hclass) _ _

/-! ### The host's way to present a word -/

theorem withFetchWord_atDecode (s : State) (n w : Nat) : (s.withFetchWord n w).AtDecode := ⟨rfl, rfl⟩

/-- The units that `withFetchWord` presents decode as the bytes of the table word. -/
theorem decodeUnits_withFetchWord (s : State) (n w : Nat) :
    decodeUnits (s.withFetchWord n w).ports.unit0 (s.withFetchWord n w).ports.unit1 =
      decodeBytes (bytesOfWord (tableWord n w)) := by
  rw [decodeBytes_word, State.withFetchWord, drive_ports, presentWord, decodeEdge_unit0, decodeEdge_unit1]

theorem decodeTableWord_eq_some {n w : Nat} {i : Instr} :
    decodeTableWord n w = some i ↔ decodeBytes (bytesOfWord (tableWord n w)) = .instr i := by
  unfold decodeTableWord
  cases decodeBytes (bytesOfWord (tableWord n w)) <;> simp

theorem decodeTableWord_eq_none {n w : Nat} :
    decodeTableWord n w = none ↔ ∃ e, decodeBytes (bytesOfWord (tableWord n w)) = .reject e := by
  unfold decodeTableWord
  cases decodeBytes (bytesOfWord (tableWord n w)) <;> simp

/-- Settles O20: the presenting edge is a decode edge over the word's units. Where they decode to an instruction the
step runs it by `stepRunsDecodedInstruction`; a rejection latches a result that is no OK. -/
theorem presentedWordRuns : Obligations.PresentedWordRuns := by
  intro s n w
  have hd := decodeUnits_withFetchWord s n w
  have hat := withFetchWord_atDecode s n w
  constructor
  · intro i hi
    exact stepRunsDecodedInstruction _ i hat (hd.trans (decodeTableWord_eq_some.mp hi))
  · intro hnone
    obtain ⟨e, he⟩ := decodeTableWord_eq_none.mp hnone
    refine ⟨_, step_of_atDecode hat, ?_⟩
    rw [hd, he]
    exact rejectResult_status_ne_ok e

end Sys2Proof.Machine
end

section
/-! PROOFS. The byte order of the stream (R27, R28). -/

namespace Sys2Proof

/-- The value of a concatenation: the low part, and the high part above it. -/
theorem toNat_append_eq_add {m n : Nat} (hi : BitVec m) (lo : BitVec n) :
    (hi ++ lo).toNat = lo.toNat + 2 ^ n * hi.toNat := by
  rw [BitVec.toNat_append, ← Nat.shiftLeft_add_eq_or_of_lt lo.isLt, Nat.shiftLeft_eq, Nat.mul_comm, Nat.add_comm]

theorem toNat_wordOfUnits (cu0 cu1 : CodeUnit) :
    (wordOfUnits cu0 cu1).toNat = cu0.toNat + 2 ^ 16 * cu1.toNat := toNat_append_eq_add cu1 cu0

/-- A unit whose two bytes the stream holds (R28). -/
theorem unitAt_of_bytes {bytes : List Byte} {k : Nat} {lo hi : Byte} (hlo : bytes[2 * k]? = some lo)
    (hhi : bytes[2 * k + 1]? = some hi) : unitAt bytes k = some (hi ++ lo) := by
  obtain ⟨h0, rfl⟩ := List.getElem?_eq_some_iff.mp hlo
  obtain ⟨h1, rfl⟩ := List.getElem?_eq_some_iff.mp hhi
  rw [unitAt, List.drop_eq_getElem_cons h0, List.drop_eq_getElem_cons h1]

/-- A unit the stream does not hold whole; a trailing odd byte is none (R156). -/
theorem unitAt_eq_none {bytes : List Byte} {k : Nat} : unitAt bytes k = none ↔ bytes.length < 2 * k + 2 := by
  constructor
  · intro hnone
    by_contra hlen
    have hsome := unitAt_of_bytes (List.getElem?_eq_getElem (l := bytes) (i := 2 * k) (by omega))
      (List.getElem?_eq_getElem (l := bytes) (i := 2 * k + 1) (by omega))
    rw [hnone] at hsome
    cases hsome
  · intro hlen
    have hdrop : (bytes.drop (2 * k)).length < 2 := by rw [List.length_drop]; omega
    unfold unitAt
    split
    case h_1 lo hi rest hcons => simp [hcons] at hdrop
    case h_2 => rfl

/-- Settles O43: the bytes of a unit and the units of a word are concatenations, low part first. -/
theorem littleEndianStream : Obligations.LittleEndianStream := by
  refine ⟨fun _ _ lo hi hlo hhi => ⟨_, unitAt_of_bytes hlo hhi, toNat_append_eq_add hi lo⟩,
    fun _ _ => unitAt_eq_none, toNat_wordOfUnits, fun b0 b1 b2 b3 => ⟨b1 ++ b0, b3 ++ b2, rfl, rfl, ?_⟩⟩
  rw [toNat_wordOfUnits, toNat_append_eq_add b1 b0, toNat_append_eq_add b3 b2]
  omega

end Sys2Proof
end

section
/-! PROOFS. The length class and the fields of a word by arithmetic and bit by bit (R37, R42 to R52). -/

namespace Sys2Proof

/-- The value of a slice. -/
theorem toNat_slice {n : Nat} (x : BitVec n) (start len : Nat) :
    (x.extractLsb' start len).toNat = x.toNat / 2 ^ start % 2 ^ len := by
  rw [BitVec.extractLsb'_toNat, Nat.shiftRight_eq_div_pow]

/-- Settles O42: the two slices that `lenClass` tests are the remainders mod 4 and mod 32. -/
theorem lengthClassOfUnitZero : Obligations.LengthClassOfUnitZero := by
  intro cu0
  have hlow : cu0.extractLsb' 0 2 = 0b11#2 ↔ cu0.toNat % 4 = 3 := by
    rw [BitVec.toNat_eq, toNat_slice, Nat.pow_zero, Nat.div_one]; rfl
  have hnext : cu0.extractLsb' 2 3 = 0b111#3 ↔ cu0.toNat / 4 % 8 = 7 := by
    rw [BitVec.toNat_eq, toNat_slice]; rfl
  unfold lenClass
  split_ifs with h2 h3
  · rw [ne_eq, hlow] at h2
    simp only [true_iff, false_iff]
    omega
  · rw [ne_eq, not_not, hlow] at h2
    rw [hnext] at h3
    simp only [true_iff, false_iff]
    omega
  · rw [ne_eq, not_not, hlow] at h2
    rw [hnext] at h3
    simp only [true_iff, false_iff]
    omega

/-! ### The fields as numbers -/

/-- The value of a signed pattern by its sign bit and the bits below it. -/
theorem toInt_eq_of_toNat {n : Nat} {x : BitVec (n + 1)} {low sign : Nat} (hx : x.toNat = low + 2 ^ n * sign)
    (hlow : low < 2 ^ n) (hsign : sign < 2) : x.toInt = (low : Int) - 2 ^ n * sign := by
  have hpow : 2 ^ (n + 1) = 2 * 2 ^ n := Nat.pow_succ'
  rw [BitVec.toInt_eq_toNat_cond, hx, hpow]
  push_cast
  interval_cases sign
  · rw [if_pos (by omega)]; simp
  · rw [if_neg (by omega)]; push_cast; ring

theorem bit31_lt (w : Word) : w.toNat / 2 ^ 31 < 2 := by have := w.isLt; omega

theorem toInt_immIOf (w : Word) :
    (immIOf w).toInt = (w.toNat / 2 ^ 20 % 2 ^ 11 : Nat) - 2 ^ 11 * (w.toNat / 2 ^ 31 : Nat) := by
  refine toInt_eq_of_toNat (n := 11) ?_ (by omega) (bit31_lt w)
  have hw := w.isLt
  rw [immIOf, toNat_slice]
  omega

theorem toInt_immSOf (w : Word) :
    (immSOf w).toInt =
      (w.toNat / 2 ^ 25 % 2 ^ 6 * 2 ^ 5 + w.toNat / 2 ^ 7 % 2 ^ 5 : Nat) - 2 ^ 11 * (w.toNat / 2 ^ 31 : Nat) := by
  refine toInt_eq_of_toNat (n := 11) ?_ (by omega) (bit31_lt w)
  have hw := w.isLt
  refine (toNat_append_eq_add (w.extractLsb' 25 7) (w.extractLsb' 7 5)).trans ?_
  simp only [toNat_slice]
  omega

theorem toInt_immBOf (w : Word) :
    (immBOf w).toInt =
      (w.toNat / 2 ^ 7 % 2 * 2 ^ 11 + w.toNat / 2 ^ 25 % 2 ^ 6 * 2 ^ 5 + w.toNat / 2 ^ 8 % 2 ^ 4 * 2 : Nat) -
        2 ^ 12 * (w.toNat / 2 ^ 31 : Nat) := by
  refine toInt_eq_of_toNat (n := 12) ?_ (by omega) (bit31_lt w)
  refine (toNat_append_eq_add
    (w.extractLsb' 31 1 ++ w.extractLsb' 7 1 ++ w.extractLsb' 25 6 ++ w.extractLsb' 8 4) 0#1).trans ?_
  simp only [toNat_append_eq_add, toNat_slice, show (0#1).toNat = 0 from rfl, Nat.pow_one,
    Nat.mod_eq_of_lt (bit31_lt w)]
  omega

theorem toInt_immJOf (w : Word) :
    (immJOf w).toInt =
      (w.toNat / 2 ^ 12 % 2 ^ 8 * 2 ^ 12 + w.toNat / 2 ^ 20 % 2 * 2 ^ 11 + w.toNat / 2 ^ 21 % 2 ^ 10 * 2 : Nat) -
        2 ^ 20 * (w.toNat / 2 ^ 31 : Nat) := by
  refine toInt_eq_of_toNat (n := 20) ?_ (by omega) (bit31_lt w)
  refine (toNat_append_eq_add
    (w.extractLsb' 31 1 ++ w.extractLsb' 12 8 ++ w.extractLsb' 20 1 ++ w.extractLsb' 21 10) 0#1).trans ?_
  simp only [toNat_append_eq_add, toNat_slice, show (0#1).toNat = 0 from rfl, Nat.pow_one,
    Nat.mod_eq_of_lt (bit31_lt w)]
  omega

namespace Machine

/-- Settles O44: each unsigned field is one slice, extended by zeros or, for `Imm20U`, moved up. -/
theorem unsignedFieldValues : Obligations.UnsignedFieldValues := by
  intro w
  have hw : w.toNat < 2 ^ 32 := w.isLt
  have h5 (start : Nat) : ((w.extractLsb' start 5).setWidth 32).toNat = w.toNat / 2 ^ start % 32 :=
    (BitVec.toNat_setWidth_of_le (by decide)).trans (toNat_slice w start 5)
  refine ⟨h5 15, h5 20, h5 7, h5 20, ?_⟩
  have hu : (fieldOf w .imm20U).toNat = 0 + 2 ^ 12 * (immUOf w).toNat := toNat_append_eq_add (immUOf w) 0#12
  rw [hu, immUOf, toNat_slice]
  omega

/-- Settles O45: an immediate's value is the weighted sum of its slices, less its modulus where the sign bit is set. -/
theorem signedFieldValues : Obligations.SignedFieldValues := by
  intro w
  have hs := bit31_lt w
  have signed {n : Nat} (x : BitVec n) (hn : n ≤ 32) : (x.signExtend 32).toInt = x.toInt :=
    BitVec.toInt_signExtend_of_le hn
  simp only [fieldOf, signed _ (show 12 ≤ 32 by decide), signed _ (show 13 ≤ 32 by decide),
    signed _ (show 21 ≤ 32 by decide)]
  refine ⟨toInt_immIOf w, toInt_immSOf w, toInt_immBOf w, toInt_immJOf w, ?_, ?_, ?_, ?_⟩
  · rw [toInt_immIOf]; omega
  · rw [toInt_immSOf]; omega
  · rw [toInt_immBOf]; omega
  · rw [toInt_immJOf]; omega

end Machine

/-! ### The fields bit by bit -/

/-- The bits of a sign extension above its field are the field's sign. -/
theorem getLsbD_signExtend_high {n v i : Nat} (x : BitVec n) (hn : n ≤ i) (hv : i < v) :
    (x.signExtend v).getLsbD i = x.msb := by
  rw [BitVec.getLsbD_signExtend, if_neg (by omega), decide_eq_true hv, Bool.true_and]

/-- A slice of a sign extension that lies inside the field. -/
theorem slice_signExtend {n v start len : Nat} (x : BitVec n) (hn : start + len ≤ n) (hv : n ≤ v) :
    (x.signExtend v).extractLsb' start len = x.extractLsb' start len := by
  apply eq_of_bits
  intro i hi
  rw [BitVec.getLsbD_extractLsb', BitVec.getLsbD_extractLsb', BitVec.getLsbD_signExtend, if_pos (by omega),
    decide_eq_true (show start + i < v by omega), Bool.true_and]

/-- Two patterns that agree bit for bit from their own starts have equal slices there. -/
theorem slice_eq_of_bits {m n start start' len : Nat} {x : BitVec m} {y : BitVec n}
    (h : ∀ i < len, x.getLsbD (start + i) = y.getLsbD (start' + i)) :
    x.extractLsb' start len = y.extractLsb' start' len := by
  apply eq_of_bits
  intro i hi
  rw [BitVec.getLsbD_extractLsb', BitVec.getLsbD_extractLsb', h i hi]

theorem msb_immIOf (w : Word) : (immIOf w).msb = w.getLsbD 31 := by
  rw [BitVec.msb_eq_getLsbD_last, immIOf, BitVec.getLsbD_extractLsb']; rfl

theorem msb_immSOf (w : Word) : (immSOf w).msb = w.getLsbD 31 := by
  rw [BitVec.msb_eq_getLsbD_last, getLsbD_immSOf]; rfl

theorem msb_immBOf (w : Word) : (immBOf w).msb = w.getLsbD 31 := by
  rw [BitVec.msb_eq_getLsbD_last, getLsbD_immBOf w _ (by decide)]; rfl

theorem msb_immJOf (w : Word) : (immJOf w).msb = w.getLsbD 31 := by
  rw [BitVec.msb_eq_getLsbD_last, getLsbD_immJOf w _ (by decide)]; rfl

theorem immSOf_slices (w : Word) :
    (immSOf w).extractLsb' 5 7 = w.extractLsb' 25 7 ∧ (immSOf w).extractLsb' 0 5 = w.extractLsb' 7 5 := by
  constructor <;> refine slice_eq_of_bits fun i hi => ?_
  · rw [getLsbD_immSOf, if_neg (by omega), decide_eq_true (by omega), Bool.true_and, show 5 + i + 20 = 25 + i by omega]
  · rw [getLsbD_immSOf, if_pos (by omega), show 0 + i + 7 = 7 + i by omega]

theorem immBOf_slices (w : Word) :
    (immBOf w).extractLsb' 12 1 = w.extractLsb' 31 1 ∧ (immBOf w).extractLsb' 11 1 = w.extractLsb' 7 1 ∧
    (immBOf w).extractLsb' 5 6 = w.extractLsb' 25 6 ∧ (immBOf w).extractLsb' 1 4 = w.extractLsb' 8 4 := by
  refine ⟨?_, ?_, ?_, ?_⟩ <;> refine slice_eq_of_bits fun i hi => ?_ <;> rw [getLsbD_immBOf w _ (by omega)] <;>
    interval_cases i <;> rfl

theorem immJOf_slices (w : Word) :
    (immJOf w).extractLsb' 20 1 = w.extractLsb' 31 1 ∧ (immJOf w).extractLsb' 12 8 = w.extractLsb' 12 8 ∧
    (immJOf w).extractLsb' 11 1 = w.extractLsb' 20 1 ∧ (immJOf w).extractLsb' 1 10 = w.extractLsb' 21 10 := by
  refine ⟨?_, ?_, ?_, ?_⟩ <;> refine slice_eq_of_bits fun i hi => ?_ <;> rw [getLsbD_immJOf w _ (by omega)] <;>
    interval_cases i <;> rfl

namespace Machine

/-- The bits of `Imm20U`: the stored 20 above 12 zeros. -/
theorem getLsbD_fieldOf_imm20U (w : Word) (i : Nat) :
    (fieldOf w .imm20U).getLsbD i = if i < 12 then false else (immUOf w).getLsbD (i - 12) := by
  show @BitVec.getLsbD (20 + 12) (immUOf w ++ 0#12) i = _
  rw [BitVec.getLsbD_append, BitVec.getLsbD_zero]

/-- The bits of a signed field above it are `w[31]`. -/
theorem fieldOf_signed_high (w : Word) {i : Nat} (hi : i < 32) :
    (12 ≤ i → (fieldOf w .imm12I).getLsbD i = w.getLsbD 31 ∧ (fieldOf w .imm12S).getLsbD i = w.getLsbD 31) ∧
    (13 ≤ i → (fieldOf w .imm12B).getLsbD i = w.getLsbD 31) ∧
    (21 ≤ i → (fieldOf w .imm20J).getLsbD i = w.getLsbD 31) :=
  ⟨fun h => ⟨(getLsbD_signExtend_high _ h hi).trans (msb_immIOf w),
      (getLsbD_signExtend_high _ h hi).trans (msb_immSOf w)⟩,
    fun h => (getLsbD_signExtend_high _ h hi).trans (msb_immBOf w),
    fun h => (getLsbD_signExtend_high _ h hi).trans (msb_immJOf w)⟩

/-- Bit 0 of a displacement is 0 (R31). -/
theorem fieldOf_displacement_bit0 (w : Word) :
    (fieldOf w .imm12B).getLsbD 0 = false ∧ (fieldOf w .imm20J).getLsbD 0 = false := by
  simp only [fieldOf, BitVec.getLsbD_signExtend, immBOf_bit0, immJOf_bit0]
  exact ⟨rfl, rfl⟩

/-- A 5-bit field is extended by zeros. -/
theorem fieldOf_unsigned_high (w : Word) {i : Nat} (hi : 5 ≤ i) :
    ∀ f ∈ [FieldSpec.rs1, .rs2, .rd, .shamt], (fieldOf w f).getLsbD i = false := by
  have high (x : BitVec 5) : (x.setWidth 32).getLsbD i = false := by
    rw [BitVec.getLsbD_setWidth, BitVec.getLsbD_of_ge x i hi, Bool.and_false]
  simp only [List.forall_mem_cons, List.not_mem_nil, false_implies, implies_true, and_true]
  exact ⟨high _, high _, high _, high _⟩

/-- Settles O46: inside the field a sign extension keeps every slice, above it there is the sign. -/
theorem fieldExtractionRoundTrip : Obligations.FieldExtractionRoundTrip := by
  intro w
  obtain ⟨hI, hB, hJ⟩ := fieldOf_signed_high w (i := 31) (by decide)
  obtain ⟨hS5, hS0⟩ := immSOf_slices w
  obtain ⟨hB12, hB11, hB5, hB1⟩ := immBOf_slices w
  obtain ⟨hJ20, hJ12, hJ11, hJ1⟩ := immJOf_slices w
  have keep {n start len : Nat} {x : BitVec n} {y : BitVec len} (h : x.extractLsb' start len = y)
      (hn : start + len ≤ n ∧ n ≤ 32 := by decide) : (x.signExtend 32).extractLsb' start len = y :=
    (slice_signExtend x hn.1 hn.2).trans h
  have low (start : Nat) : ((w.extractLsb' start 5).setWidth 32).extractLsb' 0 5 = w.extractLsb' start 5 := by
    rw [BitVec.extractLsb'_setWidth_of_le (by decide), BitVec.extractLsb'_eq_self]
  refine ⟨?_, keep BitVec.extractLsb'_eq_self, ⟨keep hS5, keep hS0⟩, ⟨keep hB12, keep hB11, keep hB5, keep hB1⟩, ?_,
    ⟨keep hJ20, keep hJ12, keep hJ11, keep hJ1⟩, ⟨low 15, low 20, low 7, low 20⟩,
    fun _ hi hlt => (fieldOf_signed_high w hlt).1 hi, fun _ hi hlt => (fieldOf_signed_high w hlt).2.1 hi,
    fun _ hi hlt => (fieldOf_signed_high w hlt).2.2 hi, fun f hf _ hi => fieldOf_unsigned_high w hi f hf, ?_,
    fieldOf_displacement_bit0 w⟩
  · simp only [List.forall_mem_cons, List.not_mem_nil, false_implies, implies_true, and_true]
    exact ⟨(hI (by decide)).1, (hI (by decide)).2, hB (by decide), hJ (by decide)⟩
  · refine slice_eq_of_bits fun i hi => ?_
    rw [getLsbD_fieldOf_imm20U, if_neg (by omega), immUOf, BitVec.getLsbD_extractLsb', decide_eq_true (by omega),
      Bool.true_and, show 12 + (12 + i - 12) = 12 + i by omega]
  · intro i hi
    rw [getLsbD_fieldOf_imm20U, if_pos hi]

end Machine
end Sys2Proof
end

section
/-! PROOFS. What each spec resolves to, and that no truncation of it loses a bit (R54, R55). -/

namespace Sys2Proof

/-- Truncating a sign extension that keeps the field is the shorter sign extension. -/
theorem setWidth_signExtend {n v v' : Nat} (x : BitVec n) (hv : v ≤ v') :
    (x.signExtend v').setWidth v = x.signExtend v := by
  apply eq_of_bits
  intro i hi
  simp only [BitVec.getLsbD_setWidth, BitVec.getLsbD_signExtend, hi, show i < v' by omega, decide_true, Bool.true_and]

/-- Sign extension in two steps. -/
theorem signExtend_signExtend {n v v' : Nat} (x : BitVec n) (hn : n ≤ v) (hv : v ≤ v') :
    (x.signExtend v).signExtend v' = x.signExtend v' := by
  apply BitVec.toInt_inj.mp
  rw [BitVec.toInt_signExtend_of_le hv, BitVec.toInt_signExtend_of_le hn, BitVec.toInt_signExtend_of_le (hn.trans hv)]

namespace Machine

variable (w : Word)

/-! ### What each spec resolves to, in the fields of the word (R54) -/

@[simp] theorem resolve_nothing : resolve w .nothing = none := rfl

@[simp] theorem resolve_rs1 : resolve w .rs1 = some (.reg (rs1Of w)) := by
  simp [resolve, fieldOf]

@[simp] theorem resolve_rs2 : resolve w .rs2 = some (.reg (rs2Of w)) := by
  simp [resolve, fieldOf]

@[simp] theorem resolve_rd : resolve w .rd = some (.reg (rdOf w)) := by
  simp [resolve, fieldOf]

@[simp] theorem resolve_shamt : resolve w .shamt = some (.shift ((shamtOf w).setWidth 8)) := by
  simp [resolve, fieldOf]

@[simp] theorem resolve_imm12I : resolve w .imm12I = some (.imm ((immIOf w).signExtend 32)) := rfl
@[simp] theorem resolve_imm12S : resolve w .imm12S = some (.imm ((immSOf w).signExtend 32)) := rfl
@[simp] theorem resolve_imm12B : resolve w .imm12B = some (.jOffset ((immBOf w).signExtend 32)) := rfl
@[simp] theorem resolve_imm20J : resolve w .imm20J = some (.jOffset ((immJOf w).signExtend 32)) := rfl
@[simp] theorem resolve_imm20U : resolve w .imm20U = some (.longImm (immUOf w ++ 0#12)) := rfl

@[simp] theorem resolve_baseOffsetRs1I :
    resolve w .baseOffsetRs1I = some (.baseOffset (rs1Of w) ((immIOf w).signExtend 16)) := by
  simp [resolve, fieldOf, setWidth_signExtend (immIOf w) (show 16 ≤ 32 by decide)]

@[simp] theorem resolve_baseOffsetRs1S :
    resolve w .baseOffsetRs1S = some (.baseOffset (rs1Of w) ((immSOf w).signExtend 16)) := by
  simp [resolve, fieldOf, setWidth_signExtend (immSOf w) (show 16 ≤ 32 by decide)]

/-- Settles O47: an index and an amount fit their narrower width, and a base offset's two sign extensions have one
value. -/
theorem resolutionLosesNothing : Obligations.ResolutionLosesNothing := by
  intro w
  have index (x : RegIndex) : x.toNat = (x.setWidth 32).toNat := (BitVec.toNat_setWidth_of_le (by decide)).symm
  have amount (x : BitVec 5) : (x.setWidth 8).toNat = (x.setWidth 32).toNat :=
    (BitVec.toNat_setWidth_of_le (by decide)).trans (index x)
  have offset (x : BitVec 12) : (x.signExtend 16).toInt = (x.signExtend 32).toInt :=
    (BitVec.toInt_signExtend_of_le (by decide)).trans (BitVec.toInt_signExtend_of_le (by decide)).symm
  exact ⟨rfl, ⟨_, resolve_rs1 w, index _⟩, ⟨_, resolve_rs2 w, index _⟩, ⟨_, resolve_rd w, index _⟩,
    ⟨_, resolve_shamt w, amount _⟩, ⟨_, _, resolve_baseOffsetRs1I w, index _, offset _⟩,
    ⟨_, _, resolve_baseOffsetRs1S w, index _, offset _⟩, ⟨_, rfl, rfl⟩, ⟨_, rfl, rfl⟩, ⟨_, rfl, rfl⟩, ⟨_, rfl, rfl⟩,
    ⟨_, rfl, rfl⟩⟩

end Machine
end Sys2Proof
end

section
/-! PROOFS. The operand lanes (R57): one lemma per operand form, over any meaning that latches an OK result of its format
and layout. -/

namespace Sys2Proof.Machine

/-! ### The lane of each kind of operand (R57) -/

@[simp] theorem Lane.ofOption_nothing : Lane.ofOption Option.none = Lane.none := rfl
@[simp] theorem Lane.ofOption_reg (i : RegIndex) : Lane.ofOption (some (.reg i)) = .regOf i := rfl
@[simp] theorem Lane.ofOption_imm (v : Word) : Lane.ofOption (some (.imm v)) = .immOf v := rfl
@[simp] theorem Lane.ofOption_longImm (v : Word) : Lane.ofOption (some (.longImm v)) = .longOf v := rfl
@[simp] theorem Lane.ofOption_jOffset (v : Word) : Lane.ofOption (some (.jOffset v)) = .jumpOf v := rfl

@[simp] theorem Lane.ofOption_shift (n : BitVec 5) : Lane.ofOption (some (.shift (n.setWidth 8))) = .shiftOf n := by
  simp [Lane.ofOption, Lane.ofOperand, Lane.shiftOf, OperandKind.code]

@[simp] theorem Lane.ofOption_baseOffset (b : RegIndex) (o : BitVec 12) :
    Lane.ofOption (some (.baseOffset b (o.signExtend 16))) = .baseOf b o := by
  simp [Lane.ofOption, Lane.ofOperand, Lane.baseOf, OperandKind.code,
    signExtend_signExtend o (show 12 ≤ 16 by decide) (show 16 ≤ 32 by decide)]

/-! ### What a meaning shows -/

/-- The lanes after an OK result whose layout names no operand after a Nothing: each shows its spec's operand (R57). -/
theorem execShows_of_latchOk {i : Instr} {s : State} {w : Word} {opc : Opcode} {l : Layout} {wd : Bool} {n : BitVec 2}
    {l0 l1 l2 : Lane} (hx : exec i s = .next (s.latchOk w opc l wd)) (hn : (okResult w opc l wd).nOps = n)
    (hlayout : (l.spec0 = .nothing → l.spec1 = .nothing) ∧ (l.spec1 = .nothing → l.spec2 = .nothing))
    (h0 : Lane.ofOption (resolve w l.spec0) = l0) (h1 : Lane.ofOption (resolve w l.spec1) = l1)
    (h2 : Lane.ofOption (resolve w l.spec2) = l2) : ExecShows i s n l0 l1 l2 :=
  ⟨_, hx, hn, (okResult_lane0 w opc l wd).trans h0, (okResult_lane1 w opc l wd hlayout.1).trans h1,
    (okResult_lane2 w opc l wd hlayout.1 hlayout.2).trans h2⟩

section
variable {i : Instr} {s : State} {opc : Opcode} {wd : Bool} {rd rs1 rs2 : RegIndex} {major : BitVec 7}

theorem execShows_upper {u : BitVec 20}
    (hx : exec i s = .next (s.latchOk (packU u rd major) opc ⟨.rd, .imm20U, .nothing⟩ wd)) :
    ExecShows i s 2 (.regOf rd) (.longOf (u ++ 0#12)) .none :=
  execShows_of_latchOk hx rfl ⟨nofun, nofun⟩ (by simp) (by simp) (by simp)

theorem execShows_jal {j : BitVec 21}
    (hx : exec i s = .next (s.latchOk (packJ j rd major) opc ⟨.rd, .imm20J, .nothing⟩ wd)) (hj : j.getLsbD 0 = false) :
    ExecShows i s 2 (.regOf rd) (.jumpOf (j.signExtend 32)) .none :=
  execShows_of_latchOk hx rfl ⟨nofun, nofun⟩ (by simp) (by simp [immJOf_packJ j rd major hj]) (by simp)

variable {f3 : BitVec 3}

theorem execShows_branch {b : BitVec 13}
    (hx : exec i s = .next (s.latchOk (packB b rs2 rs1 f3 major) opc ⟨.rs1, .rs2, .imm12B⟩ wd))
    (hb : b.getLsbD 0 = false) : ExecShows i s 3 (.regOf rs1) (.regOf rs2) (.jumpOf (b.signExtend 32)) :=
  execShows_of_latchOk hx rfl ⟨nofun, nofun⟩ (by simp) (by simp) (by simp [immBOf_packB b rs2 rs1 f3 major hb])

theorem execShows_load {o : BitVec 12}
    (hx : exec i s = .next (s.latchOk (packI o rs1 f3 rd major) opc ⟨.rd, .baseOffsetRs1I, .nothing⟩ wd)) :
    ExecShows i s 2 (.regOf rd) (.baseOf rs1 o) .none :=
  execShows_of_latchOk hx rfl ⟨nofun, nofun⟩ (by simp) (by simp) (by simp)

theorem execShows_store {o : BitVec 12}
    (hx : exec i s = .next (s.latchOk (packS o rs2 rs1 f3 major) opc ⟨.rs2, .baseOffsetRs1S, .nothing⟩ wd)) :
    ExecShows i s 2 (.regOf rs2) (.baseOf rs1 o) .none :=
  execShows_of_latchOk hx rfl ⟨nofun, nofun⟩ (by simp) (by simp) (by simp)

/-- JALR and the ALU-imm instructions with a 12-bit immediate. -/
theorem execShows_imm {imm : BitVec 12}
    (hx : exec i s = .next (s.latchOk (packI imm rs1 f3 rd major) opc ⟨.rd, .rs1, .imm12I⟩ wd)) :
    ExecShows i s 3 (.regOf rd) (.regOf rs1) (.immOf (imm.signExtend 32)) :=
  execShows_of_latchOk hx rfl ⟨nofun, nofun⟩ (by simp) (by simp) (by simp)

variable {f7 : BitVec 7}

theorem execShows_shift {sh : BitVec 5}
    (hx : exec i s = .next (s.latchOk (packR f7 sh rs1 f3 rd major) opc ⟨.rd, .rs1, .shamt⟩ wd)) :
    ExecShows i s 3 (.regOf rd) (.regOf rs1) (.shiftOf sh) :=
  execShows_of_latchOk hx rfl ⟨nofun, nofun⟩ (by simp) (by simp) (by simp)

theorem execShows_aluReg
    (hx : exec i s = .next (s.latchOk (packR f7 rs2 rs1 f3 rd major) opc ⟨.rd, .rs1, .rs2⟩ wd)) :
    ExecShows i s 3 (.regOf rd) (.regOf rs1) (.regOf rs2) :=
  execShows_of_latchOk hx rfl ⟨nofun, nofun⟩ (by simp) (by simp) (by simp)

theorem execShows_system {w : Word}
    (hx : exec i s = .next (s.latchOk w opc ⟨.nothing, .nothing, .nothing⟩ wd)) :
    ExecShows i s 0 .none .none .none :=
  execShows_of_latchOk hx rfl ⟨fun _ => rfl, fun _ => rfl⟩ rfl rfl rfl

end

/-- Settles O9: LUI and AUIPC by their shared U form, JAL and JALR each by its own. -/
theorem upperAndJumpLanes : Obligations.UpperAndJumpLanes :=
  fun _ _ _ _ _ _ _ hj => ⟨execShows_upper rfl, execShows_upper rfl, execShows_jal rfl hj, execShows_imm rfl⟩

/-- Settles O10: the six branches have one form. -/
theorem branchLanes : Obligations.BranchLanes := by
  intro s rs1 rs2 b hb
  simp only [List.forall_mem_cons, List.not_mem_nil, false_implies, implies_true, and_true]
  exact ⟨execShows_branch rfl hb, execShows_branch rfl hb, execShows_branch rfl hb, execShows_branch rfl hb,
    execShows_branch rfl hb, execShows_branch rfl hb⟩

/-- Settles O11: the five loads have one form and the three stores another. -/
theorem loadStoreLanes : Obligations.LoadStoreLanes := by
  intro s rd rs1 rs2 o
  simp only [List.forall_mem_cons, List.not_mem_nil, false_implies, implies_true, and_true]
  exact ⟨⟨execShows_load rfl, execShows_load rfl, execShows_load rfl, execShows_load rfl, execShows_load rfl⟩,
    execShows_store rfl, execShows_store rfl, execShows_store rfl⟩

/-- Settles O12: six instructions have the immediate form and three the shift form. -/
theorem aluImmLanes : Obligations.AluImmLanes := by
  intro s rd rs1 imm sh f7
  simp only [List.forall_mem_cons, List.not_mem_nil, false_implies, implies_true, and_true]
  exact ⟨⟨execShows_imm rfl, execShows_imm rfl, execShows_imm rfl, execShows_imm rfl, execShows_imm rfl,
    execShows_imm rfl⟩, execShows_shift rfl, execShows_shift rfl, execShows_shift rfl⟩

/-- Settles O13: the ten ALU-reg instructions have one form. -/
theorem aluRegLanes : Obligations.AluRegLanes := by
  intro s rd rs1 rs2 f7
  simp only [List.forall_mem_cons, List.not_mem_nil, false_implies, implies_true, and_true]
  exact ⟨execShows_aluReg rfl, execShows_aluReg rfl, execShows_aluReg rfl, execShows_aluReg rfl, execShows_aluReg rfl,
    execShows_aluReg rfl, execShows_aluReg rfl, execShows_aluReg rfl, execShows_aluReg rfl, execShows_aluReg rfl⟩

/-- Settles O14: the layout of ECALL and EBREAK names no operand. -/
theorem systemLanes : Obligations.SystemLanes := by
  intro s rest
  simp only [List.forall_mem_cons, List.not_mem_nil, false_implies, implies_true, and_true]
  exact ⟨execShows_system rfl, execShows_system rfl⟩

end Sys2Proof.Machine
end

section
/-! PROOFS. A presented word against the opcode table: the row that covers it decides what the step latches. The rows share
no word and no tag, so the OK of a row's tag means that this row covers the word. -/

namespace Sys2Proof.Machine

/-- Settles O15: each word is decoded by running the decoder. -/
theorem writtenWordsDecode : Obligations.WrittenWordsDecode := by
  unfold Obligations.WrittenWordsDecode
  decide

/-! ### The rows of the table -/

/-- The tag of a dispatch, where it is an OK. -/
def Dispatched.opcode? : Dispatched → Option Opcode
  | .ok opc _ => some opc
  | .fail _ _ => none

/-- Settles O18: any two rows keep a bit at which their patterns differ. -/
theorem tableRowsDisjoint : Obligations.TableRowsDisjoint := by
  have hclash : opcodeTable.Pairwise fun a b => (a.pattern ^^^ b.pattern) &&& (a.mask &&& b.mask) ≠ 0#32 := by decide
  exact hclash.imp fun h w => rows_disjoint_of_clash h w

/-- A word has one row at most (R59). -/
theorem row_eq_of_covers {a b : TableRow} (ha : a ∈ opcodeTable) (hb : b ∈ opcodeTable) {w : Word}
    (hca : a.covers w = true) (hcb : b.covers w = true) : a = b := by
  by_contra hne
  have symm : Std.Symm fun a b : TableRow => ∀ w : Word, ¬ (a.covers w = true ∧ b.covers w = true) :=
    ⟨fun _ _ h w hw => h w hw.symm⟩
  exact tableRowsDisjoint.forall ha hb hne w ⟨hca, hcb⟩

/-- `Dispatch` of a covered word is the result of its row (R58). -/
theorem dispatchWord_of_covers {row : TableRow} (hrow : row ∈ opcodeTable) {w : Word} (hcov : row.covers w = true) :
    dispatchWord w = row.result := by
  unfold dispatchWord
  split
  case h_1 found hfind =>
    have hfound : found.covers w = true := List.find?_some (p := fun r : TableRow => r.covers w) hfind
    rw [row_eq_of_covers (List.mem_of_find?_eq_some hfind) hrow hfound hcov]
  case h_2 hnone => exact absurd hcov (List.find?_eq_none.mp hnone row hrow)

/-- `Decode` of a whole word is the OK of a row that covers it, the failure of the FENCE row (R114), or InvalidOpcode
(R59). -/
theorem decodeWordResult_cases (w : Word) :
    (∃ row ∈ opcodeTable, ∃ opc l, row.result = .ok opc l ∧ row.covers w = true ∧
      decodeWordResult w = okResult w opc l (wellDefined w opc)) ∨
    (decodeWordResult w).status = 3#3 ∨ (decodeWordResult w).status = 4#3 := by
  have hfail : ∀ row ∈ opcodeTable, row.result.opcode? = none →
      row.result = .fail .unsupportedEncoding .fenceGroup := by decide
  rw [decodeWordResult_eq]
  by_cases hcov : ∃ row ∈ opcodeTable, row.covers w = true
  · obtain ⟨row, hrow, hcov⟩ := hcov
    rw [dispatchWord_of_covers hrow hcov]
    cases hres : row.result with
    | ok opc l => exact .inl ⟨row, hrow, opc, l, hres, hcov, rfl⟩
    | fail kind reason =>
      rw [← hres, hfail row hrow (by rw [hres]; rfl)]
      exact .inr (.inl rfl)
  · rw [dispatchWord, List.find?_eq_none.mpr fun row hrow hc => hcov ⟨row, hrow, hc⟩]
    exact .inr (.inr rfl)

/-- The words of the table's rows are in the 32-bit class (R38). -/
theorem lenClass_of_covers {row : TableRow} (hrow : row ∈ opcodeTable) {w : Word} (hcov : row.covers w = true) :
    lenClass (lowUnit w) = .len32 := by
  have hclass : ∀ r ∈ opcodeTable, lenClass (lowUnit r.pattern) = .len32 := by decide
  rw [lenClass_lowUnit, majorOf_of_covers hrow hcov, ← lenClass_lowUnit]
  exact hclass row hrow

/-- No two rows report one tag. -/
theorem row_eq_of_opcode {a b : TableRow} (ha : a ∈ opcodeTable) (hb : b ∈ opcodeTable) {opc : Opcode} {l l' : Layout}
    (hra : a.result = .ok opc l) (hrb : b.result = .ok opc l') : a = b := by
  have htags : ∀ a ∈ opcodeTable, ∀ b ∈ opcodeTable, a.result.opcode?.isSome = true →
      a.result.opcode? = b.result.opcode? → a = b := by decide
  exact htags a ha b hb (by rw [hra]; rfl) (by rw [hra, hrb]; rfl)

/-- The tag of a row is one a decode produces (R15). -/
theorem produced_of_row {row : TableRow} (hrow : row ∈ opcodeTable) {opc : Opcode} {l : Layout}
    (hres : row.result = .ok opc l) : Opcode.produced opc.code = true := by
  have hproduced : ∀ r ∈ opcodeTable, r.result.opcode?.all (Opcode.produced ·.code) = true := by decide
  simpa [hres, Dispatched.opcode?] using hproduced row hrow

/-- A tag is read back from its code (R15). -/
theorem opcodeCode_injective : Function.Injective Opcode.code :=
  Function.LeftInverse.injective (g := fun code => Opcode.ofNat code.toNat) fun opc => by cases opc <;> rfl

/-! ### What a decode edge latches for a presented word -/

/-- A decode edge that presents a whole word latches R39's `Decode` of it where the word is in the 32-bit class, and no OK
otherwise. -/
theorem step_of_presents {s : State} {w : Word} (hp : s.Presents w) :
    ∃ r : ResultReg, step s = .next { result := r, inputs := s.inputs.tail } ∧
      (lenClass (lowUnit w) = .len32 → r = decodeWordResult w) ∧ (lenClass (lowUnit w) ≠ .len32 → r.status ≠ 1#3) := by
  obtain ⟨hu0, hu1⟩ := units_of_presents hp
  refine ⟨_, step_of_atDecode hp.1, ?_, ?_⟩ <;> rw [hu0, hu1] <;> intro hl
  · rw [decodeUnits_word hl, decodeWordResult_eq_decodedResult]
  · cases hc : lenClass (lowUnit w) with
    | compressed16 => rw [decodeUnits_compressed hc]; exact rejectResult_status_ne_ok _
    | wide48Plus => rw [decodeUnits_wide hc]; exact rejectResult_status_ne_ok _
    | len32 => exact absurd hc hl

/-- A word that an OK row covers: the step latches the row's result over it. -/
theorem step_of_covers {s : State} {w : Word} {row : TableRow} {opc : Opcode} {l : Layout} (hp : s.Presents w)
    (hrow : row ∈ opcodeTable) (hres : row.result = .ok opc l) (hcov : row.covers w = true) :
    step s = .next { result := okResult w opc l (wellDefined w opc), inputs := s.inputs.tail } := by
  obtain ⟨r, hstep, hr, -⟩ := step_of_presents hp
  rw [hstep, hr (lenClass_of_covers hrow hcov), decodeWordResult_eq, dispatchWord_of_covers hrow hcov, hres]
  rfl

/-- After an OK some row of the table covers the presented word, and the register holds its result. -/
theorem row_of_step_ok {s t : State} {w : Word} (hp : s.Presents w) (hstep : step s = .next t)
    (hok : t.result.status = 1#3) :
    ∃ row ∈ opcodeTable, ∃ opc l, row.result = .ok opc l ∧ row.covers w = true ∧
      t.result = okResult w opc l (wellDefined w opc) := by
  obtain ⟨r, hs, hin, hout⟩ := step_of_presents hp
  obtain rfl := Host.Outcome.next.inj (hstep.symm.trans hs)
  by_cases hl : lenClass (lowUnit w) = .len32
  · obtain rfl := hin hl
    rcases decodeWordResult_cases w with hrow | h3 | h4
    · exact hrow
    · exact absurd (h3.symm.trans hok) (by decide)
    · exact absurd (h4.symm.trans hok) (by decide)
  · exact absurd hok (hout hl)

/-- Settles O19: a covered word latches its row's result; the OK of the row's tag comes from a row that covers the word
and has this tag, and no other row has. -/
theorem maskMatchDecidesDecode : Obligations.MaskMatchDecidesDecode := by
  intro row opc l hrow hres s w hp
  by_cases hcov : row.covers w = true
  · exact ⟨_, step_of_covers hp hrow hres hcov, iff_of_true ⟨rfl, rfl⟩ hcov, fun _ => rfl⟩
  · obtain ⟨r, hstep, -⟩ := step_of_presents hp
    refine ⟨_, hstep, iff_of_false ?_ hcov, fun h => absurd h hcov⟩
    rintro ⟨hok, htag⟩
    obtain ⟨row', hrow', opc', l', hres', hcov', hr⟩ := row_of_step_ok hp hstep hok
    rw [hr, okResult_opc] at htag
    obtain rfl := opcodeCode_injective htag
    exact hcov (row_eq_of_opcode hrow hrow' hres hres' ▸ hcov')

/-! ### The outcomes of a decode -/

theorem specCode_le (spec : OperandSpec) : spec.code ≤ 11#4 := by cases spec <;> decide

/-- A rejection is one of the three errors (R139). -/
theorem rejectResult_status (e : Reject) :
    (rejectResult e).status = 2#3 ∨ (rejectResult e).status = 3#3 ∨ (rejectResult e).status = 4#3 := by
  cases e <;> simp [rejectResult, Status.code]

/-- Settles O28: a decode is a rejection, which is an error, or what the dispatch of a whole word gives. -/
theorem decodeIsTotal : Obligations.DecodeIsTotal := by
  intro s hat
  refine ⟨_, step_of_atDecode hat, ?_⟩
  rw [← decodeRegister_eq_decodedResult]
  rcases decodeRegister_cases s.ports.cu0 s.ports.cu0Avail s.ports.cu1 s.ports.cu1Avail with ⟨e, he⟩ | ⟨-, -, -, hw⟩
  · rw [he]
    exact .inr (rejectResult_status e)
  · rw [hw]
    rcases decodeWordResult_cases (wordOfUnits s.ports.cu0 s.ports.cu1) with
      ⟨row, hrow, opc, l, hres, -, hr⟩ | h3 | h4
    · rw [hr]
      exact .inl ⟨rfl, produced_of_row hrow hres, specCode_le _, specCode_le _, specCode_le _⟩
    · exact .inr (.inr (.inl h3))
    · exact .inr (.inr (.inr h4))

end Sys2Proof.Machine
end

section
/-! PROOFS. The don't-care bits of a word (R61): the flag reads them (R62), the row and the operands do not. -/

namespace Sys2Proof

/-- Words that agree on a mask agree on a slice the mask covers. -/
theorem slice_eq_of_and_eq {w w' mask : Word} {start len : Nat} (h : w &&& mask = w' &&& mask)
    (hmask : mask.extractLsb' start len = BitVec.allOnes len) :
    w.extractLsb' start len = w'.extractLsb' start len := by
  have hs := congrArg (BitVec.extractLsb' start len) h
  rwa [BitVec.extractLsb'_and, BitVec.extractLsb'_and, hmask, BitVec.and_allOnes, BitVec.and_allOnes] at hs

/-- Words that agree on a mask agree on any part of it. -/
theorem and_eq_of_part {w w' mask part : Word} (h : w &&& mask = w' &&& mask) (hpart : mask &&& part = part) :
    w &&& part = w' &&& part := by
  rw [← hpart, ← BitVec.and_assoc, h, BitVec.and_assoc]

namespace Machine

/-! ### The bits an operand is made of -/

/-- The bits of the word that a field is made of (R43 to R51). -/
def fieldMask : FieldSpec → Word
  | .rs1 => 0x000f8000#32
  | .rs2 | .shamt => 0x01f00000#32
  | .rd => 0x00000f80#32
  | .imm12I => 0xfff00000#32
  | .imm12S | .imm12B => 0xfe000f80#32
  | .imm20U | .imm20J => 0xfffff000#32

/-- The fields that a spec's operand is made of (R54). -/
def specFields : OperandSpec → List FieldSpec
  | .nothing => []
  | .rs1 => [.rs1]
  | .rs2 => [.rs2]
  | .rd => [.rd]
  | .imm12I => [.imm12I]
  | .imm12S => [.imm12S]
  | .imm12B => [.imm12B]
  | .imm20U => [.imm20U]
  | .imm20J => [.imm20J]
  | .baseOffsetRs1I => [.rs1, .imm12I]
  | .baseOffsetRs1S => [.rs1, .imm12S]
  | .shamt => [.shamt]

/-- A field is a function of its own bits. -/
theorem fieldOf_eq_of_and_eq {w w' : Word} {f : FieldSpec} (h : w &&& fieldMask f = w' &&& fieldMask f) :
    fieldOf w f = fieldOf w' f := by
  have slice (start len : Nat) (hm : (fieldMask f).extractLsb' start len = BitVec.allOnes len) :
      w.extractLsb' start len = w'.extractLsb' start len := slice_eq_of_and_eq h hm
  cases f with
  | rs1 => simp only [fieldOf, rs1Of, slice 15 5 rfl]
  | rs2 => simp only [fieldOf, rs2Of, slice 20 5 rfl]
  | rd => simp only [fieldOf, rdOf, slice 7 5 rfl]
  | shamt => simp only [fieldOf, shamtOf, slice 20 5 rfl]
  | imm12I => simp only [fieldOf, immIOf, slice 20 12 rfl]
  | imm12S => simp only [fieldOf, immSOf, slice 25 7 rfl, slice 7 5 rfl]
  | imm12B => simp only [fieldOf, immBOf, slice 31 1 rfl, slice 7 1 rfl, slice 25 6 rfl, slice 8 4 rfl]
  | imm20U => simp only [fieldOf, immUOf, slice 12 20 rfl]
  | imm20J => simp only [fieldOf, immJOf, slice 31 1 rfl, slice 12 8 rfl, slice 20 1 rfl, slice 21 10 rfl]

/-- An operand is a function of its spec's fields. -/
theorem resolve_eq_of_fields {w w' : Word} {spec : OperandSpec} (h : ∀ f ∈ specFields spec, fieldOf w f = fieldOf w' f) :
    resolve w spec = resolve w' spec := by
  cases spec
  case nothing => rfl
  case baseOffsetRs1I | baseOffsetRs1S =>
    simp only [specFields, List.forall_mem_cons] at h
    simp only [resolve, h]
  all_goals
    simp only [specFields, List.mem_singleton, forall_eq] at h
    simp only [resolve, h]

/-- The lanes and the text of an OK result are functions of its tag, its layout and its operands. -/
theorem okResult_shows_same {w w' : Word} {opc : Opcode} {l : Layout} (wd wd' : Bool) (hopc : opc ∈ decodedOpcodes)
    (h0 : resolve w l.spec0 = resolve w' l.spec0) (h1 : resolve w l.spec1 = resolve w' l.spec1)
    (h2 : resolve w l.spec2 = resolve w' l.spec2) :
    (okResult w opc l wd).lane0 = (okResult w' opc l wd').lane0 ∧
    (okResult w opc l wd).lane1 = (okResult w' opc l wd').lane1 ∧
    (okResult w opc l wd).lane2 = (okResult w' opc l wd').lane2 ∧
    render (okResult w opc l wd) = render (okResult w' opc l wd') := by
  refine ⟨?_, ?_, ?_, ?_⟩
  · simp [ResultReg.lane0, okResult_nOps, h0]
  · simp [ResultReg.lane1, okResult_nOps, h1]
  · simp [ResultReg.lane2, okResult_nOps, h2]
  · rw [render_okResult _ _ _ _ hopc, render_okResult _ _ _ _ hopc, h0, h1, h2]

/-! ### What the don't-care bits of a row leave -/

/-- The row's don't-care bits (R61) are outside its mask and outside the fields of its operands. -/
def TableRow.ignoresDontCare (row : TableRow) : Bool :=
  match row.result with
  | .ok opc l => decide (~~~ dontCareMask opc &&& row.mask = row.mask) &&
      [l.spec0, l.spec1, l.spec2].all fun spec => (specFields spec).all fun f =>
        decide (~~~ dontCareMask opc &&& fieldMask f = fieldMask f)
  | .fail _ _ => true

/-- A word that differs from a covered one in don't-care bits only is covered too, and shows the same operands. -/
theorem covers_and_resolve_of_dontCare {row : TableRow} {opc : Opcode} {l : Layout} {w w' : Word}
    (hrow : row ∈ opcodeTable) (hres : row.result = .ok opc l)
    (h : w &&& ~~~ dontCareMask opc = w' &&& ~~~ dontCareMask opc) (hcov : row.covers w = true) :
    row.covers w' = true ∧ ∀ spec ∈ [l.spec0, l.spec1, l.spec2], resolve w spec = resolve w' spec := by
  have hrows : ∀ r ∈ opcodeTable, r.ignoresDontCare = true := by decide
  have hkept := hrows row hrow
  simp only [TableRow.ignoresDontCare, hres, Bool.and_eq_true, List.all_eq_true, decide_eq_true_eq] at hkept
  obtain ⟨hmask, hfields⟩ := hkept
  constructor
  · rw [TableRow.covers, ← and_eq_of_part h hmask]
    exact hcov
  · exact fun spec hspec => resolve_eq_of_fields fun f hf =>
      fieldOf_eq_of_and_eq (and_eq_of_part h (hfields spec hspec f hf))

/-- The tags a decode produces have a text (R129). -/
theorem decoded_of_produced {opc : Opcode} (h : Opcode.produced opc.code = true) : opc ∈ decodedOpcodes := by
  revert h
  cases opc <;> decide

/-- Settles O36: the row that covers the first word covers the second, whose result differs in the word and the flag
only; the fields of its operands have no don't-care bit. -/
theorem dontCareBitsKeepDecodeAndText : Obligations.DontCareBitsKeepDecodeAndText := by
  intro s s' t w w' opc hp hp' hstep hok htag hagree
  obtain ⟨row, hrow, opc', l, hres, hcov, hr⟩ := row_of_step_ok hp hstep hok
  rw [hr, okResult_opc] at htag
  obtain rfl := opcodeCode_injective htag
  obtain ⟨hcov', hops⟩ := covers_and_resolve_of_dontCare hrow hres hagree hcov
  simp only [List.forall_mem_cons] at hops
  obtain ⟨h0, h1, h2, -⟩ := hops
  obtain ⟨hl0, hl1, hl2, htext⟩ := okResult_shows_same (wellDefined w opc') (wellDefined w' opc')
    (decoded_of_produced (produced_of_row hrow hres)) h0 h1 h2
  refine ⟨_, step_of_covers hp' hrow hres hcov', ?_⟩
  simp only [State.outputs, hr]
  exact ⟨rfl, rfl, rfl, rfl, rfl, hl0.symm, hl1.symm, hl2.symm, htext.symm⟩

/-! ### The flag -/

/-- The tags whose flag may be 0, each with the bits it reads (R62). -/
theorem wellDefined_eq_false (w : Word) (opc : Opcode) :
    wellDefined w opc = false ↔
      (opc.code = 4#6 ∧ funct3Of w ≠ 0b000#3) ∨
      (opc.code ∈ [25#6, 30#6, 31#6, 32#6, 33#6, 36#6, 37#6] ∧ funct7Of w ≠ 0b0000000#7) ∨
      (opc.code ∈ [39#6, 40#6] ∧ systemRestOf w ≠ 0#13) := by
  cases opc
  case jalr => simp [wellDefined, wdFunct3, Opcode.code]
  case slli | sll | slt | sltu | xor | or | and => simp [wellDefined, wdFunct7, Opcode.code]
  case ecall | ebreak => simp [wellDefined, wdSystem, Opcode.code]
  -- the other tags have no don't-care bit
  all_goals simp [wellDefined, Opcode.code]

/-- Settles O37: after an OK the flag is that of the word and its row's tag. -/
theorem wellDefinedFlagRule : Obligations.WellDefinedFlagRule := by
  intro s t w hp hstep hok
  obtain ⟨_, -, opc, l, -, -, hr⟩ := row_of_step_ok hp hstep hok
  rw [hr]
  exact wellDefined_eq_false w opc

end Machine
end Sys2Proof
end

section
/-! PROOFS. What a completing meaning latches, its tag and layout written as their codes (R67 to R70). -/

namespace Sys2Proof.Machine

/-- The register of an OK result, by the codes of its tag and of its layout (R39). -/
theorem okResult_eq_okRegister (w : Word) (opc : Opcode) (l : Layout) (wd : Bool) :
    okResult w opc l wd = okRegister w opc.code l.spec0.code l.spec1.code l.spec2.code wd := rfl

/-- A meaning that latches an OK result writes the codes of its tag and of its layout, and nothing else. -/
theorem exec_latches_okRegister {i : Instr} {s : State} {w : Word} {wd : Bool} (opc : Opcode) (l : Layout)
    (hx : exec i s = .next (s.latchOk w opc l wd)) :
    exec i s = .next (s.latch (okRegister w opc.code l.spec0.code l.spec1.code l.spec2.code wd)) := by
  rw [hx, State.latchOk, okResult_eq_okRegister]

theorem wdFunct3_eq_decide (f3 : BitVec 3) : wdFunct3 f3 = decide (f3 = 0b000#3) := beq_eq_decide f3 _

/-- Settles O1: each meaning latches an OK result; only JALR's flag reads a field, its funct3. -/
theorem upperAndJumpsLatch : Obligations.UpperAndJumpsLatch := by
  intro s rd rs1 u j imm f3
  refine ⟨?lui, ?auipc, ?jal, ?jalr⟩
  case lui => exact exec_latches_okRegister .lui ⟨.rd, .imm20U, .nothing⟩ rfl
  case auipc => exact exec_latches_okRegister .auipc ⟨.rd, .imm20U, .nothing⟩ rfl
  case jal => exact exec_latches_okRegister .jal ⟨.rd, .imm20J, .nothing⟩ rfl
  case jalr =>
    rw [← wdFunct3_eq_decide]
    exact exec_latches_okRegister .jalr ⟨.rd, .rs1, .imm12I⟩ rfl

end Sys2Proof.Machine
end

section
/-! PROOFS. What the six branches latch (R72 to R77): they share the B row and one layout, and differ in `funct3` and tag. -/

namespace Sys2Proof.Machine

/-- A branch's meaning latches its B word with the spec codes of Rs1, Rs2 and Imm12B; no branch has a don't-care bit. -/
theorem exec_latches_branchRegister {i : Instr} {s : State} {b : BitVec 13} {rs1 rs2 : RegIndex} {f3 : BitVec 3}
    (opc : Opcode)
    (hx : exec i s = .next (s.latchOk (packB b rs2 rs1 f3 0b1100011#7) opc ⟨.rs1, .rs2, .imm12B⟩ true)) :
    exec i s = .next (s.latch (okRegister (packB b rs2 rs1 f3 0b1100011#7) opc.code 1 2 6 true)) :=
  exec_latches_okRegister opc ⟨.rs1, .rs2, .imm12B⟩ hx

/-- Settles O2: each meaning latches the B word of its `funct3` under its own tag. -/
theorem branchesLatch : Obligations.BranchesLatch := by
  intro s rs1 rs2 b
  refine ⟨?beq, ?bne, ?blt, ?bge, ?bltu, ?bgeu⟩
  case beq => exact exec_latches_branchRegister .beq rfl
  case bne => exact exec_latches_branchRegister .bne rfl
  case blt => exact exec_latches_branchRegister .blt rfl
  case bge => exact exec_latches_branchRegister .bge rfl
  case bltu => exact exec_latches_branchRegister .bltu rfl
  case bgeu => exact exec_latches_branchRegister .bgeu rfl

end Sys2Proof.Machine
end

section
/-! PROOFS. What the five loads and the three stores latch (R80 to R84, R87 to R89): the loads share the I row and one
layout, the stores the S row and another; within each they differ in `funct3` and tag. -/

namespace Sys2Proof.Machine

/-- A load's meaning latches its I word with the spec codes of Rd and BaseOffsetRs1I; no load has a don't-care bit. -/
theorem exec_latches_loadRegister {i : Instr} {s : State} {o : BitVec 12} {rs1 rd : RegIndex} {f3 : BitVec 3}
    (opc : Opcode)
    (hx : exec i s = .next (s.latchOk (packI o rs1 f3 rd 0b0000011#7) opc ⟨.rd, .baseOffsetRs1I, .nothing⟩ true)) :
    exec i s = .next (s.latch (okRegister (packI o rs1 f3 rd 0b0000011#7) opc.code 3 9 0 true)) :=
  exec_latches_okRegister opc ⟨.rd, .baseOffsetRs1I, .nothing⟩ hx

/-- A store's meaning latches its S word with the spec codes of Rs2 and BaseOffsetRs1S; no store has a don't-care bit. -/
theorem exec_latches_storeRegister {i : Instr} {s : State} {o : BitVec 12} {rs2 rs1 : RegIndex} {f3 : BitVec 3}
    (opc : Opcode)
    (hx : exec i s = .next (s.latchOk (packS o rs2 rs1 f3 0b0100011#7) opc ⟨.rs2, .baseOffsetRs1S, .nothing⟩ true)) :
    exec i s = .next (s.latch (okRegister (packS o rs2 rs1 f3 0b0100011#7) opc.code 2 10 0 true)) :=
  exec_latches_okRegister opc ⟨.rs2, .baseOffsetRs1S, .nothing⟩ hx

/-- Settles O3: each meaning latches the I or S word of its `funct3` under its own tag. -/
theorem loadsStoresLatch : Obligations.LoadsStoresLatch := by
  intro s rd rs1 rs2 o
  refine ⟨?lb, ?lh, ?lw, ?lbu, ?lhu, ?sb, ?sh, ?sw⟩
  case lb => exact exec_latches_loadRegister .lb rfl
  case lh => exact exec_latches_loadRegister .lh rfl
  case lw => exact exec_latches_loadRegister .lw rfl
  case lbu => exact exec_latches_loadRegister .lbu rfl
  case lhu => exact exec_latches_loadRegister .lhu rfl
  case sb => exact exec_latches_storeRegister .sb rfl
  case sh => exact exec_latches_storeRegister .sh rfl
  case sw => exact exec_latches_storeRegister .sw rfl

end Sys2Proof.Machine
end

section
/-! PROOFS. The words of a group that match no entry: which sub-keys the decoder's branch of the group refuses, and what a
decode edge reports for them (R78, R85, R90, R101, R113, R118). -/

namespace Sys2Proof.Machine

variable {w : Word}

/-! ### The sub-keys each group refuses -/

/-- Six of the eight funct3 values are branches (R71, R78). -/
theorem decodeBranch_eq_none : decodeBranch w = none ↔ funct3Of w = 0b010#3 ∨ funct3Of w = 0b011#3 := by
  rcases funct3_cases (funct3Of w) with h | h | h | h | h | h | h | h <;> simp [decodeBranch, h]

/-- Five of the eight funct3 values are loads (R85). -/
theorem decodeLoad_eq_none :
    decodeLoad w = none ↔ funct3Of w = 0b011#3 ∨ funct3Of w = 0b110#3 ∨ funct3Of w = 0b111#3 := by
  rcases funct3_cases (funct3Of w) with h | h | h | h | h | h | h | h <;> simp [decodeLoad, h]

/-- The stores take the three lowest funct3 values (R90). -/
theorem decodeStore_eq_none : decodeStore w = none ↔ 0b011#3 ≤ funct3Of w := by
  rcases funct3_cases (funct3Of w) with h | h | h | h | h | h | h | h <;> simp [decodeStore, h]

/-- A choice between two sub-key values refuses every other value. -/
theorem choice_eq_none {p q : Prop} [Decidable p] [Decidable q] (i j : Instr) :
    (if p then some i else if q then some j else none) = none ↔ ¬p ∧ ¬q := by
  split_ifs with hp hq
  · simp [hp]
  · simp [hq]
  · simp [hp, hq]

/-- Only the right shifts consult funct7: SLLI does not (R101). -/
theorem decodeAluImm_eq_none :
    decodeAluImm w = none ↔ funct3Of w = 0b101#3 ∧ funct7Of w ≠ 0b0000000#7 ∧ funct7Of w ≠ 0b0100000#7 := by
  rcases funct3_cases (funct3Of w) with h | h | h | h | h | h | h | h <;> simp [decodeAluImm, h, choice_eq_none]

/-- Only ADD with SUB and SRL with SRA consult funct7 (R113). -/
theorem decodeAluReg_eq_none :
    decodeAluReg w = none ↔
      (funct3Of w = 0b000#3 ∨ funct3Of w = 0b101#3) ∧ funct7Of w ≠ 0b0000000#7 ∧ funct7Of w ≠ 0b0100000#7 := by
  rcases funct3_cases (funct3Of w) with h | h | h | h | h | h | h | h <;> simp [decodeAluReg, h, choice_eq_none]

/-- ECALL and EBREAK are the only SYSTEM sub-keys (R118). -/
theorem decodeSystem_eq_none : decodeSystem w = none ↔ systemKeyOf w ≠ 0x000#12 ∧ systemKeyOf w ≠ 0x001#12 :=
  choice_eq_none _ _

/-! ### What a decode edge reports for a refused word -/

/-- The words of the eleven groups are in the 32-bit class (R38). -/
theorem lenClass_of_group (hm : majorOf w ∈ groupMajors) : lenClass (lowUnit w) = .len32 := by
  have hclass : ∀ m ∈ groupMajors, m.extractLsb' 0 2 = 0b11#2 ∧ m.extractLsb' 2 3 ≠ 0b111#3 := by decide
  obtain ⟨hlow, hnext⟩ := hclass _ hm
  simp [lenClass_lowUnit, hlow, hnext]

/-- A presented word of the 32-bit class that `Dispatch` refuses is InvalidOpcode, two units read (R59). -/
theorem stepReports_invalid {s : State} (hp : s.Presents w) (hl : lenClass (lowUnit w) = .len32)
    (hd : dispatchWord w = .invalid) : StepReports s 4#3 0#2 2#2 := by
  obtain ⟨r, hstep, hr, -⟩ := step_of_presents hp
  refine ⟨_, hstep, ?_⟩
  rw [hr hl, decodeWordResult_eq, hd]
  exact ⟨rfl, rfl, rfl⟩

/-- A presented word whose group refuses it is InvalidOpcode, two units read (R59). -/
theorem stepReports_of_group_refuses {s : State} {major : BitVec 7} {group : Option Instr} (hp : s.Presents w)
    (hm : majorOf w = major) (hmem : major ∈ groupMajors) (hd : dispatchWord w = group.elim .invalid dispatchedOf)
    (hnone : group = none) : StepReports s 4#3 0#2 2#2 :=
  stepReports_invalid hp (lenClass_of_group (hm ▸ hmem)) (by rw [hd, hnone]; rfl)

/-- Settles O32: each clause gives a sub-key that its group refuses. -/
theorem unmatchedSubKeysAreInvalid : Obligations.UnmatchedSubKeysAreInvalid := by
  intro s w hp
  refine ⟨?branch, ?load, ?store, ?aluImm, ?aluReg, ?system⟩
  case branch =>
    intro hm hf3
    exact stepReports_of_group_refuses hp hm (by decide) (dispatchWord_branch hm) (decodeBranch_eq_none.mpr hf3)
  case load =>
    intro hm hf3
    exact stepReports_of_group_refuses hp hm (by decide) (dispatchWord_load hm) (decodeLoad_eq_none.mpr hf3)
  case store =>
    intro hm hf3
    exact stepReports_of_group_refuses hp hm (by decide) (dispatchWord_store hm) (decodeStore_eq_none.mpr hf3)
  case aluImm =>
    intro hm hf3 h0 h32
    exact stepReports_of_group_refuses hp hm (by decide) (dispatchWord_aluImm hm)
      (decodeAluImm_eq_none.mpr ⟨hf3, h0, h32⟩)
  case aluReg =>
    intro hm hf3 h0 h32
    exact stepReports_of_group_refuses hp hm (by decide) (dispatchWord_aluReg hm)
      (decodeAluReg_eq_none.mpr ⟨hf3, h0, h32⟩)
  case system =>
    intro hm h0 h1
    exact stepReports_of_group_refuses hp hm (by decide) (dispatchWord_system hm) (decodeSystem_eq_none.mpr ⟨h0, h1⟩)

end Sys2Proof.Machine
end

section
/-! PROOFS. What the nine ALU-imm instructions latch (R92 to R100): six share the I row with `Imm12I`, three the I-shift row
with the shift amount; within each they differ in `funct3`, `funct7` and tag, and only SLLI's flag reads a field (R62). -/

namespace Sys2Proof.Machine

variable {i : Instr} {s : State} {rd rs1 : RegIndex} {f3 : BitVec 3}

/-- An ALU-imm instruction with a 12-bit immediate latches its I word with the spec codes of Rd, Rs1 and Imm12I; none of
them has a don't-care bit. -/
theorem exec_latches_immRegister {imm : BitVec 12} (opc : Opcode)
    (hx : exec i s = .next (s.latchOk (packI imm rs1 f3 rd 0b0010011#7) opc ⟨.rd, .rs1, .imm12I⟩ true)) :
    exec i s = .next (s.latch (okRegister (packI imm rs1 f3 rd 0b0010011#7) opc.code 3 1 4 true)) :=
  exec_latches_okRegister opc ⟨.rd, .rs1, .imm12I⟩ hx

/-- An ALU-imm shift latches its I-shift word with the spec codes of Rd, Rs1 and Shamt. -/
theorem exec_latches_shiftRegister {f7 : BitVec 7} {sh : BitVec 5} {wd : Bool} (opc : Opcode)
    (hx : exec i s = .next (s.latchOk (packR f7 sh rs1 f3 rd 0b0010011#7) opc ⟨.rd, .rs1, .shamt⟩ wd)) :
    exec i s = .next (s.latch (okRegister (packR f7 sh rs1 f3 rd 0b0010011#7) opc.code 3 1 11 wd)) :=
  exec_latches_okRegister opc ⟨.rd, .rs1, .shamt⟩ hx

theorem wdFunct7_eq_decide (f7 : BitVec 7) : wdFunct7 f7 = decide (f7 = 0b0000000#7) := beq_eq_decide f7 _

/-- Settles O4: each meaning latches its I or I-shift word under its own tag; only SLLI's flag reads a field, its funct7. -/
theorem aluImmLatch : Obligations.AluImmLatch := by
  intro s rd rs1 imm sh f7
  refine ⟨?addi, ?slti, ?sltiu, ?xori, ?ori, ?andi, ?slli, ?srli, ?srai⟩
  case addi => exact exec_latches_immRegister .addi rfl
  case slti => exact exec_latches_immRegister .slti rfl
  case sltiu => exact exec_latches_immRegister .sltiu rfl
  case xori => exact exec_latches_immRegister .xori rfl
  case ori => exact exec_latches_immRegister .ori rfl
  case andi => exact exec_latches_immRegister .andi rfl
  case slli =>
    rw [← wdFunct7_eq_decide]
    exact exec_latches_shiftRegister .slli rfl
  case srli => exact exec_latches_shiftRegister .srli rfl
  case srai => exact exec_latches_shiftRegister .srai rfl

end Sys2Proof.Machine
end

section
/-! PROOFS. What the ten ALU-reg instructions latch (R103 to R112): all share the R row and the layout Rd, Rs1, Rs2. ADD,
SUB, SRL and SRA take `funct7` as a key; the other six carry it as a field of don't-care bits, which the flag reads (R62). -/

namespace Sys2Proof.Machine

variable {i : Instr} {s : State} {rd rs1 rs2 : RegIndex} {f7 : BitVec 7} {f3 : BitVec 3}

/-- An ALU-reg instruction latches its R word with the spec codes of Rd, Rs1 and Rs2. -/
theorem exec_latches_regRegister {wd : Bool} (opc : Opcode)
    (hx : exec i s = .next (s.latchOk (packR f7 rs2 rs1 f3 rd 0b0110011#7) opc ⟨.rd, .rs1, .rs2⟩ wd)) :
    exec i s = .next (s.latch (okRegister (packR f7 rs2 rs1 f3 rd 0b0110011#7) opc.code 3 1 2 wd)) :=
  exec_latches_okRegister opc ⟨.rd, .rs1, .rs2⟩ hx

/-- Where `funct7` is not a key, the latched flag says whether it is 0 (R62). -/
theorem exec_latches_regRegister_freeFunct7 (opc : Opcode)
    (hx : exec i s =
      .next (s.latchOk (packR f7 rs2 rs1 f3 rd 0b0110011#7) opc ⟨.rd, .rs1, .rs2⟩ (wdFunct7 f7))) :
    exec i s = .next (s.latch
      (okRegister (packR f7 rs2 rs1 f3 rd 0b0110011#7) opc.code 3 1 2 (decide (f7 = 0b0000000#7)))) :=
  wdFunct7_eq_decide f7 ▸ exec_latches_regRegister opc hx

/-- Settles O5: each meaning latches its R word under its own tag; the flag reads `funct7` exactly where it is no key. -/
theorem aluRegLatch : Obligations.AluRegLatch := by
  intro s rd rs1 rs2 f7 word wd
  refine ⟨?add, ?sub, ?sll, ?slt, ?sltu, ?xor, ?srl, ?sra, ?or, ?and⟩
  case add => exact exec_latches_regRegister .add rfl
  case sub => exact exec_latches_regRegister .sub rfl
  case sll => exact exec_latches_regRegister_freeFunct7 .sll rfl
  case slt => exact exec_latches_regRegister_freeFunct7 .slt rfl
  case sltu => exact exec_latches_regRegister_freeFunct7 .sltu rfl
  case xor => exact exec_latches_regRegister_freeFunct7 .xor rfl
  case srl => exact exec_latches_regRegister .srl rfl
  case sra => exact exec_latches_regRegister .sra rfl
  case or => exact exec_latches_regRegister_freeFunct7 .or rfl
  case and => exact exec_latches_regRegister_freeFunct7 .and rfl

end Sys2Proof.Machine
end

section
/-! PROOFS. The FENCE and SYSTEM groups and the words of no group (R114 to R120): what FENCE, ECALL and EBREAK latch,
what a decode edge reports for every word of the FENCE group, and the words and tags no decode answers with an OK. -/

namespace Sys2Proof.Machine

variable {s : State} {w : Word}

/-! ### What the three meanings latch -/

/-- What a consumer may read after an error is latched (R23). -/
theorem latchError_reports (s : State) (kind : Status) (reason : UReason) (n : BitVec 2) (w : Word) :
    (s.latchError kind reason n w).Reports kind.code reason.code n := ⟨rfl, rfl, rfl⟩

/-- Settles O7: the meaning is an error latch, which writes the register alone. -/
theorem fenceReportsUnsupported : Obligations.FenceReportsUnsupported := by
  intro s rest
  exact ⟨s.latchError .unsupportedEncoding .fenceGroup 2#2 (encode (.fence rest)), rfl,
    latchError_reports s .unsupportedEncoding .fenceGroup 2#2 _, latchError_inputs s _ _ _ _⟩

theorem wdSystem_eq_decide (rest : BitVec 13) : wdSystem rest = decide (rest = 0#13) := beq_eq_decide rest _

/-- A SYSTEM instruction latches the word of its key with no operand spec; the flag says whether `w[19:7]` is 0
(R62). -/
theorem exec_latches_systemRegister {i : Instr} {key : BitVec 12} {rest : BitVec 13} (opc : Opcode)
    (hx : exec i s =
      .next (s.latchOk (packSystem key rest 0b1110011#7) opc ⟨.nothing, .nothing, .nothing⟩ (wdSystem rest))) :
    exec i s =
      .next (s.latch (okRegister (packSystem key rest 0b1110011#7) opc.code 0 0 0 (decide (rest = 0#13)))) :=
  wdSystem_eq_decide rest ▸ exec_latches_okRegister opc ⟨.nothing, .nothing, .nothing⟩ hx

/-- Settles O6: ECALL and EBREAK latch the SYSTEM word of their key, each under its own tag. -/
theorem ecallEbreakLatch : Obligations.EcallEbreakLatch := by
  intro s rest
  exact ⟨exec_latches_systemRegister .ecall rfl, exec_latches_systemRegister .ebreak rfl⟩

/-! ### The FENCE group -/

/-- A presented word of the 32-bit class for which `Dispatch` finds a failure reports it, two units read (R39). -/
theorem stepReports_of_dispatch_fail {kind : Status} {reason : UReason} (hp : s.Presents w)
    (hl : lenClass (lowUnit w) = .len32) (hd : dispatchWord w = .fail kind reason) :
    StepReports s kind.code reason.code 2#2 := by
  obtain ⟨r, hstep, hr, -⟩ := step_of_presents hp
  refine ⟨_, hstep, ?_⟩
  rw [hr hl, decodeWordResult_eq, hd]
  exact latchError_reports s.tick kind reason 2#2 w

/-- Settles O34: the FENCE group is one row, keyed by the major opcode alone. -/
theorem fenceGroupIsUnsupported : Obligations.FenceGroupIsUnsupported := by
  intro s w hp hm
  have hgroup : majorOf w ∈ groupMajors := by rw [majorOf, hm]; decide
  exact stepReports_of_dispatch_fail hp (lenClass_of_group hgroup) (dispatchWord_of_single hm rfl rfl rfl)

/-! ### The words of no group -/

theorem majorOf_low2 (w : Word) : (majorOf w).extractLsb' 0 2 = w.extractLsb' 0 2 := by simp [majorOf]

theorem majorOf_next3 (w : Word) : (majorOf w).extractLsb' 2 3 = w.extractLsb' 2 3 := by simp [majorOf]

/-- A presented word whose major opcode is in the 32-bit class and names no group has no row, so `Dispatch` refuses it
(R120). -/
theorem stepReports_of_unnamed_major {major : BitVec 7} (hp : s.Presents w) (hm : majorOf w = major)
    (hlow : major.extractLsb' 0 2 = 0b11#2) (hnext : major.extractLsb' 2 3 ≠ 0b111#3) (hnone : major ∉ groupMajors) :
    StepReports s 4#3 0#2 2#2 := by
  have hl : lenClass (lowUnit w) = .len32 := by simp [lenClass_lowUnit, hm, hlow, hnext]
  exact stepReports_invalid hp hl (dispatchWord_of_no_group (hm ▸ hnone))

/-- Settles O33: the class bits of the word are those of its major opcode, which names no group. -/
theorem unnamedMajorOpcodesAreInvalid : Obligations.UnnamedMajorOpcodesAreInvalid := by
  intro s w hp hlow hnext hnone
  rw [← majorOf_low2] at hlow
  rw [← majorOf_next3] at hnext
  exact stepReports_of_unnamed_major hp rfl hlow hnext hnone

/-! ### The tags that are only declared -/

/-- The produced codes are 1 to 37, 39 and 40 (R15). -/
theorem not_declared_of_produced : ∀ {code : BitVec 6}, Opcode.produced code = true → code ≠ 38#6 ∧ code < 41#6 := by
  decide

/-- Settles O35: the tag of an OK is a produced one by the invariant that every decode establishes; LWU, LD and SD are
sub-keys that Load and Store refuse, and the other two major opcodes name no group. -/
theorem declaredTagsAreNeverProduced : Obligations.DeclaredTagsAreNeverProduced := by
  refine ⟨?tags, ?words⟩
  case tags =>
    rintro s t ⟨hreq, -⟩ hstep hok
    obtain ⟨⟨hlegal, -⟩, -⟩ := oneEdgeEstablishesInvariant s t (.inr hreq) hstep
    obtain ⟨-, -, -, hproduced, -, -⟩ := hlegal
    exact not_declared_of_produced (hproduced hok).1
  case words =>
    intro s w hp hw
    obtain ⟨-, hload, hstore, -, -, -⟩ := unmatchedSubKeysAreInvalid s w hp
    rcases hw with ⟨hm, hf3⟩ | ⟨hm, hf3⟩ | hm | hm
    · exact hload hm (hf3.imp_right .inl)
    · exact hstore hm (BitVec.le_of_eq hf3.symm)
    · exact stepReports_of_unnamed_major hp hm (by decide) (by decide) (by decide)
    · exact stepReports_of_unnamed_major hp hm (by decide) (by decide) (by decide)

end Sys2Proof.Machine
end

section
/-! PROOFS. The hexadecimal numerals and the register names (R130, R131): the numeral of a value is built digit by digit,
most significant first, and each step of that recursion keeps its value, its alphabet and its leading digit. -/

namespace Sys2Proof.Machine

/-- Settles O53: the table has 32 entries, each compared with the name its range gives. -/
theorem registerNamesFollowTheTable : Obligations.RegisterNamesFollowTheTable := by
  unfold Obligations.RegisterNamesFollowTheTable
  decide

/-! ### One digit -/

/-- The value of one hexadecimal digit, as `hexValue` reads it. -/
def hexDigitValue (c : Char) : Nat := if c.toNat < 58 then c.toNat - 48 else c.toNat - 87

theorem hexDigitValue_hexDigit : ∀ n < 16, hexDigitValue (hexDigit n) = n := by decide

theorem hexDigit_eq_zero : ∀ n < 16, hexDigit n = '0' → n = 0 := by decide

theorem isLowerHex_hexDigit : ∀ n < 16, IsLowerHex (hexDigit n) := by
  unfold IsLowerHex
  decide

/-! ### The digits of a value -/

theorem hexValue_append_singleton (digits : List Char) (c : Char) :
    hexValue (digits ++ [c]) = 16 * hexValue digits + hexDigitValue c :=
  List.foldl_concat ..

/-- The digits already written stay behind those of the value. -/
theorem hexDigits_append (fuel n : Nat) (acc : List Char) : hexDigits fuel n acc = hexDigits fuel n [] ++ acc := by
  induction fuel generalizing n acc with
  | zero => rfl
  | succ fuel ih =>
    unfold hexDigits
    split_ifs
    · rfl
    · rw [ih, ih _ [_], List.append_assoc, List.singleton_append]

theorem hexDigits_of_lt (fuel : Nat) {n : Nat} (h : n < 16) : hexDigits (fuel + 1) n [] = [hexDigit n] := by
  rw [hexDigits, if_pos h]

theorem hexDigits_of_ge (fuel : Nat) {n : Nat} (h : ¬ n < 16) :
    hexDigits (fuel + 1) n [] = hexDigits fuel (n / 16) [] ++ [hexDigit (n % 16)] := by
  rw [hexDigits, if_neg h, hexDigits_append]

theorem isLowerHex_of_mem_hexDigits (fuel n : Nat) : ∀ c ∈ hexDigits fuel n [], IsLowerHex c := by
  induction fuel generalizing n with
  | zero => simp [hexDigits]
  | succ fuel ih =>
    by_cases h : n < 16
    · rw [hexDigits_of_lt fuel h]
      simpa using isLowerHex_hexDigit n h
    · rw [hexDigits_of_ge fuel h, List.forall_mem_append]
      exact ⟨ih _, by simpa using isLowerHex_hexDigit (n % 16) (Nat.mod_lt n (by decide))⟩

/-- With fuel for all its digits, a value is read back from them. -/
theorem hexValue_hexDigits {fuel n : Nat} (hn : n < 16 ^ fuel) : hexValue (hexDigits fuel n []) = n := by
  induction fuel generalizing n with
  | zero => exact (Nat.lt_one_iff.mp hn).symm
  | succ fuel ih =>
    by_cases h : n < 16
    · rw [hexDigits_of_lt fuel h, ← List.nil_append [hexDigit n], hexValue_append_singleton, hexDigitValue_hexDigit n h]
      exact Nat.zero_add n
    · rw [hexDigits_of_ge fuel h, hexValue_append_singleton, ih (Nat.div_lt_of_lt_mul (Nat.pow_succ' ▸ hn)),
        hexDigitValue_hexDigit _ (Nat.mod_lt n (by decide)), Nat.div_add_mod]

/-- The most significant digit of a value other than 0 is not 0. -/
theorem hexDigits_head_ne_zero {fuel n : Nat} (hn : n < 16 ^ fuel) (h0 : n ≠ 0) :
    ∃ c rest, hexDigits fuel n [] = c :: rest ∧ c ≠ '0' := by
  induction fuel generalizing n with
  | zero => exact absurd (Nat.lt_one_iff.mp hn) h0
  | succ fuel ih =>
    by_cases h : n < 16
    · exact ⟨_, [], hexDigits_of_lt fuel h, fun hc => h0 (hexDigit_eq_zero n h hc)⟩
    · obtain ⟨c, rest, hdigits, hc⟩ := ih (Nat.div_lt_of_lt_mul (Nat.pow_succ' ▸ hn)) (by omega)
      exact ⟨c, rest ++ [hexDigit (n % 16)], by rw [hexDigits_of_ge fuel h, hdigits, List.cons_append], hc⟩

theorem hexText_zero : hexText 0 = "0x0" := rfl

/-- Settles O54: eight digits are enough below 2^32, and the digits of a value have the three properties. -/
theorem hexNumeralsReadBack : Obligations.HexNumeralsReadBack :=
  ⟨hexText_zero, fun n hn => ⟨hexDigits 8 n [], rfl, hexValue_hexDigits hn, isLowerHex_of_mem_hexDigits 8 n,
    hexDigits_head_ne_zero hn⟩⟩

end Sys2Proof.Machine
end

section
/-! PROOFS. The text of an OK result (R121 to R138): the text of each operand, the pseudo rules, and one lemma per operand
form over any meaning that latches an OK result of its format and layout. -/

namespace Sys2Proof.Machine

/-! ### The text of one operand (R132 to R137) -/

theorem toInt_eq_zero_iff {n : Nat} (x : BitVec n) : x.toInt = 0 ↔ x = 0#n := by
  rw [← BitVec.toInt_inj, BitVec.toInt_zero]

theorem signedHexText_eq (v : Int) : signedHexText v = (if v < 0 then "-" else "") ++ hexText v.natAbs := by
  unfold signedHexText
  split_ifs
  · rfl
  · rw [String.empty_append]

@[simp] theorem operandText_reg (i : RegIndex) : operandText (.reg i) = regName i := rfl

@[simp] theorem operandText_imm (imm : BitVec 12) :
    operandText (.imm (imm.signExtend 32)) = (if imm.toInt < 0 then "-" else "") ++ hexText imm.toInt.natAbs := by
  rw [operandText, signedHexText_eq, BitVec.toInt_signExtend_of_le (by decide)]

@[simp] theorem operandText_baseOffset (b : RegIndex) (o : BitVec 12) :
    operandText (.baseOffset b (o.signExtend 16)) =
      (if o = 0#12 then "" else (if o.toInt < 0 then "-" else "") ++ hexText o.toInt.natAbs) ++
        "(" ++ regName b ++ ")" := by
  simp only [operandText, BitVec.toInt_signExtend_of_le (show 12 ≤ 16 by decide), toInt_eq_zero_iff, signedHexText_eq]

@[simp] theorem operandText_shift (sh : BitVec 5) : operandText (.shift (sh.setWidth 8)) = hexText sh.toNat := by
  rw [operandText, BitVec.toNat_setWidth_of_le (by decide)]

/-- The numeral of an upper immediate is that of its 20 stored bits (R133). -/
@[simp] theorem operandText_longImm (u : BitVec 20) : operandText (.longImm (u ++ 0#12)) = hexText u.toNat := by
  have hu : (u ++ 0#12).toNat = 0 + 2 ^ 12 * u.toNat := toNat_append_eq_add u 0#12
  rw [operandText, hu, Nat.zero_add, Nat.mul_div_cancel_left _ (by decide)]

theorem operandText_jOffset {n : Nat} (x : BitVec n) (hn : n ≤ 32) :
    operandText (.jOffset (x.signExtend 32)) = (if x.toInt < 0 then "$-" else "$+") ++ hexText x.toInt.natAbs := by
  rw [operandText, displacementText, BitVec.toInt_signExtend_of_le hn]

/-! ### The pseudo rules (R124 to R127) -/

/-- ADDI is rewritten where its immediate is 0 (R124, R125). -/
theorem pseudoText_addi (d s : RegIndex) (imm : BitVec 12) :
    pseudoText .addi [some (.reg d), some (.reg s), some (.imm (imm.signExtend 32))] =
      if imm = 0#12 then (if d = s then some "nop" else some ("mv " ++ regName d ++ ", " ++ regName s)) else none := by
  simp only [pseudoText, BitVec.toInt_signExtend_of_le (show 12 ≤ 32 by decide), toInt_eq_zero_iff]

/-- BEQ is rewritten where its two registers are one (R126). -/
theorem pseudoText_beq (a b : RegIndex) (v : Word) :
    pseudoText .beq [some (.reg a), some (.reg b), some (.jOffset v)] =
      if a = b then some ("beq " ++ operandText (.jOffset v)) else none := rfl

/-- SLL is rewritten where it shifts a register by register 0 into itself (R127). -/
theorem pseudoText_sll (d s t : RegIndex) :
    pseudoText .sll [some (.reg d), some (.reg s), some (.reg t)] = if d = s ∧ t = 0#5 then some "nop" else none := rfl

/-- Every pseudo rule asks for three operands. -/
theorem pseudoText_two (opc : Opcode) (a b : Operand) : pseudoText opc [some a, some b, none] = none := by
  unfold pseudoText
  split
  case h_4 => rfl
  all_goals next heq => simp at heq

/-- No pseudo rule asks for a shift amount. -/
theorem pseudoText_shift (opc : Opcode) (d s : RegIndex) (n : BitVec 8) :
    pseudoText opc [some (.reg d), some (.reg s), some (.shift n)] = none := by
  cases opc <;> rfl

/-! ### The text of a tag with its operands (R123, R129) -/

theorem mnemonic_isSome (opc : Opcode) : (mnemonic opc).isSome = true ↔ opc ∈ decodedOpcodes := by
  cases opc <;> decide

theorem genericText_two (name : String) (a b : Operand) :
    genericText name [a, b] = name ++ " " ++ operandText a ++ ", " ++ operandText b := by
  show name ++ " " ++ (operandText a ++ ", " ++ operandText b) = _
  simp only [String.append_assoc]

theorem genericText_three (name : String) (a b c : Operand) :
    genericText name [a, b, c] =
      name ++ " " ++ (operandText a ++ ", " ++ operandText b ++ ", ") ++ operandText c := by
  show name ++ " " ++ (operandText a ++ ", " ++ operandText b ++ ", " ++ operandText c) = _
  simp only [String.append_assoc]

theorem renderOps_of_pseudo {opc : Opcode} {ops : List (Option Operand)} {text : String}
    (h : pseudoText opc ops = some text) : renderOps opc ops = some text := by
  rw [renderOps, h]

theorem renderOps_of_generic {opc : Opcode} {ops : List (Option Operand)} (h : pseudoText opc ops = none) :
    renderOps opc ops = (mnemonic opc).map (genericText · (visibleOperands ops)) := by
  rw [renderOps, h]

/-- The tags with a pseudo rule decode. -/
theorem decoded_of_pseudoText {opc : Opcode} {ops : List (Option Operand)} {text : String}
    (h : pseudoText opc ops = some text) : opc ∈ decodedOpcodes := by
  unfold pseudoText at h
  split at h
  case h_4 => cases h
  all_goals decide

/-- Whatever its operands, a tag has a text exactly when it decodes (R122, R123). -/
theorem renderOps_isSome (opc : Opcode) (ops : List (Option Operand)) :
    (renderOps opc ops).isSome = true ↔ opc ∈ decodedOpcodes := by
  cases hp : pseudoText opc ops with
  | some text =>
    rw [renderOps_of_pseudo hp]
    exact iff_of_true rfl (decoded_of_pseudoText hp)
  | none => rw [renderOps_of_generic hp, Option.isSome_map, mnemonic_isSome]

/-! ### Where there is a text (R121, R122) -/

theorem render_eq_none {r : ResultReg} (h : r.status ≠ 1#3) : render r = none := if_neg h

/-- The OK of a whole word has the tag of a row, and every such tag decodes. -/
theorem render_decodeWordResult {w : Word} (hok : (decodeWordResult w).status = 1#3) :
    (render (decodeWordResult w)).isSome = true := by
  rcases decodeWordResult_cases w with ⟨row, hrow, opc, l, hres, -, hr⟩ | h3 | h4
  · have hopc := decoded_of_produced (produced_of_row hrow hres)
    rw [hr, render_okResult _ _ _ _ hopc, renderOps_isSome]
    exact hopc
  · exact absurd (h3.symm.trans hok) (by decide)
  · exact absurd (h4.symm.trans hok) (by decide)

/-- Settles O48: after an OK the register is R39's `Decode` of its own word, by the invariant that every decode
establishes. -/
theorem renderDefinedExactlyOnOk : Obligations.RenderDefinedExactlyOnOk := by
  rintro s t ⟨hreq, -⟩ hstep
  obtain ⟨⟨-, hself⟩, -⟩ := oneEdgeEstablishesInvariant s t (.inr hreq) hstep
  constructor
  · intro hsome
    by_contra hok
    simp [render_eq_none hok] at hsome
  · intro hok
    obtain ⟨-, hr⟩ := hself hok
    rw [hr] at hok ⊢
    exact render_decodeWordResult hok

/-! ### What a meaning renders -/

/-- What the generic text of a tag with visible operands begins with: its mnemonic and a space (R129). -/
def mnemonicLead (opc : Opcode) : Option String := (mnemonic opc).map (· ++ " ")

section
variable {i : Instr} {s : State} {w : Word} {opc : Opcode} {l : Layout} {wd : Bool} {ops : List (Option Operand)}
  {a b c : Operand} {text lead : String}

/-- The text after an OK result: that of its tag and its operands (R121). -/
theorem execRenders_of_latchOk (hx : exec i s = .next (s.latchOk w opc l wd))
    (hops : [resolve w l.spec0, resolve w l.spec1, resolve w l.spec2] = ops) (htext : renderOps opc ops = some text) :
    ExecRenders i s text := by
  have hopc : opc ∈ decodedOpcodes := (renderOps_isSome opc ops).mp (by rw [htext]; rfl)
  exact ⟨_, hx, (render_okResult w opc l wd hopc).trans (hops ▸ htext)⟩

theorem execRenders_of_pseudo (hx : exec i s = .next (s.latchOk w opc l wd))
    (hops : [resolve w l.spec0, resolve w l.spec1, resolve w l.spec2] = ops) (hpseudo : pseudoText opc ops = some text) :
    ExecRenders i s text :=
  execRenders_of_latchOk hx hops (renderOps_of_pseudo hpseudo)

theorem execRenders_of_two (hx : exec i s = .next (s.latchOk w opc l wd))
    (hops : [resolve w l.spec0, resolve w l.spec1, resolve w l.spec2] = [some a, some b, none])
    (hlead : mnemonicLead opc = some lead) :
    ExecRenders i s (lead ++ operandText a ++ ", " ++ operandText b) := by
  obtain ⟨name, hname, rfl⟩ := Option.map_eq_some_iff.mp hlead
  refine execRenders_of_latchOk hx hops ?_
  rw [renderOps_of_generic (pseudoText_two opc a b), hname, ← genericText_two]
  rfl

theorem execRenders_of_three (hx : exec i s = .next (s.latchOk w opc l wd))
    (hops : [resolve w l.spec0, resolve w l.spec1, resolve w l.spec2] = [some a, some b, some c])
    (hpseudo : pseudoText opc [some a, some b, some c] = none) (hlead : mnemonicLead opc = some lead) :
    ExecRenders i s (lead ++ (operandText a ++ ", " ++ operandText b ++ ", ") ++ operandText c) := by
  obtain ⟨name, hname, rfl⟩ := Option.map_eq_some_iff.mp hlead
  refine execRenders_of_latchOk hx hops ?_
  rw [renderOps_of_generic hpseudo, hname, ← genericText_three]
  rfl

end

/-! ### The operand forms -/

section
variable {i : Instr} {s : State} {opc : Opcode} {wd : Bool} {rd rs1 rs2 : RegIndex} {major : BitVec 7} {f3 : BitVec 3}
  {f7 : BitVec 7} {lead : String}

theorem execRenders_upper {u : BitVec 20}
    (hx : exec i s = .next (s.latchOk (packU u rd major) opc ⟨.rd, .imm20U, .nothing⟩ wd))
    (hlead : mnemonicLead opc = some lead) :
    ExecRenders i s (lead ++ regName rd ++ ", " ++ hexText u.toNat) := by
  rw [← operandText_longImm]
  exact execRenders_of_two (a := .reg rd) hx (by simp) hlead

theorem execRenders_load {o : BitVec 12}
    (hx : exec i s = .next (s.latchOk (packI o rs1 f3 rd major) opc ⟨.rd, .baseOffsetRs1I, .nothing⟩ wd))
    (hlead : mnemonicLead opc = some lead) :
    ExecRenders i s (lead ++ regName rd ++ ", " ++ operandText (.baseOffset rs1 (o.signExtend 16))) :=
  execRenders_of_two (a := .reg rd) hx (by simp) hlead

theorem execRenders_store {o : BitVec 12}
    (hx : exec i s = .next (s.latchOk (packS o rs2 rs1 f3 major) opc ⟨.rs2, .baseOffsetRs1S, .nothing⟩ wd))
    (hlead : mnemonicLead opc = some lead) :
    ExecRenders i s (lead ++ regName rs2 ++ ", " ++ operandText (.baseOffset rs1 (o.signExtend 16))) :=
  execRenders_of_two (a := .reg rs2) hx (by simp) hlead

theorem execRenders_jal {j : BitVec 21}
    (hx : exec i s = .next (s.latchOk (packJ j rd major) opc ⟨.rd, .imm20J, .nothing⟩ wd)) (hj : j.getLsbD 0 = false)
    (hlead : mnemonicLead opc = some lead) :
    ExecRenders i s (lead ++ regName rd ++ ", " ++ operandText (.jOffset (j.signExtend 32))) :=
  execRenders_of_two (a := .reg rd) hx (by simp [immJOf_packJ j rd major hj]) hlead

theorem execRenders_branch {b : BitVec 13}
    (hx : exec i s = .next (s.latchOk (packB b rs2 rs1 f3 major) opc ⟨.rs1, .rs2, .imm12B⟩ wd))
    (hb : b.getLsbD 0 = false)
    (hpseudo : pseudoText opc [some (.reg rs1), some (.reg rs2), some (.jOffset (b.signExtend 32))] = none)
    (hlead : mnemonicLead opc = some lead) :
    ExecRenders i s
      (lead ++ (regName rs1 ++ ", " ++ regName rs2 ++ ", ") ++ operandText (.jOffset (b.signExtend 32))) :=
  execRenders_of_three (a := .reg rs1) (b := .reg rs2) hx (by simp [immBOf_packB b rs2 rs1 f3 major hb]) hpseudo hlead

/-- JALR and the ALU-imm instructions with a 12-bit immediate. -/
theorem execRenders_imm {imm : BitVec 12}
    (hx : exec i s = .next (s.latchOk (packI imm rs1 f3 rd major) opc ⟨.rd, .rs1, .imm12I⟩ wd))
    (hpseudo : pseudoText opc [some (.reg rd), some (.reg rs1), some (.imm (imm.signExtend 32))] = none)
    (hlead : mnemonicLead opc = some lead) :
    ExecRenders i s (lead ++ (regName rd ++ ", " ++ regName rs1 ++ ", ") ++ operandText (.imm (imm.signExtend 32))) :=
  execRenders_of_three (a := .reg rd) (b := .reg rs1) hx (by simp) hpseudo hlead

theorem execRenders_shift {sh : BitVec 5}
    (hx : exec i s = .next (s.latchOk (packR f7 sh rs1 f3 rd major) opc ⟨.rd, .rs1, .shamt⟩ wd))
    (hlead : mnemonicLead opc = some lead) :
    ExecRenders i s (lead ++ (regName rd ++ ", " ++ regName rs1 ++ ", ") ++ hexText sh.toNat) := by
  rw [← operandText_shift]
  exact execRenders_of_three (a := .reg rd) (b := .reg rs1) hx (by simp) (pseudoText_shift opc rd rs1 _) hlead

theorem execRenders_aluReg
    (hx : exec i s = .next (s.latchOk (packR f7 rs2 rs1 f3 rd major) opc ⟨.rd, .rs1, .rs2⟩ wd))
    (hpseudo : pseudoText opc [some (.reg rd), some (.reg rs1), some (.reg rs2)] = none)
    (hlead : mnemonicLead opc = some lead) :
    ExecRenders i s (lead ++ (regName rd ++ ", " ++ regName rs1 ++ ", ") ++ regName rs2) :=
  execRenders_of_three (a := .reg rd) (b := .reg rs1) (c := .reg rs2) hx (by simp) hpseudo hlead

/-- Without a visible operand the text is the mnemonic (R129). -/
theorem execRenders_system {w : Word} {name : String}
    (hx : exec i s = .next (s.latchOk w opc ⟨.nothing, .nothing, .nothing⟩ wd)) (hname : mnemonic opc = some name) :
    ExecRenders i s name := by
  refine execRenders_of_latchOk hx rfl ?_
  rw [renderOps_of_generic (by cases opc <;> rfl), hname]
  rfl

end

/-! ### The statements -/

/-- Settles O49: ADDI's pseudo rule takes an immediate 0, and asks whether the two registers are one. -/
theorem addiZeroRendersNopOrMv : Obligations.AddiZeroRendersNopOrMv := by
  intro s d r
  have pseudo (rs1 : RegIndex) {text : String}
      (h : (if d = rs1 then some "nop" else some ("mv " ++ regName d ++ ", " ++ regName rs1)) = some text) :
      ExecRenders (.addi d rs1 0#12) s text :=
    execRenders_of_pseudo rfl (by simp [encode]) ((pseudoText_addi d rs1 0#12).trans h)
  exact ⟨pseudo d (if_pos rfl), fun hne => pseudo r (if_neg hne)⟩

/-- Settles O50: BEQ and SLL by their pseudo rules; SLLI has none and keeps its shift form. -/
theorem beqAndSllPseudoForms : Obligations.BeqAndSllPseudoForms := by
  intro s a b f7 hb
  refine ⟨?beq, ?sll, ?slli⟩
  case beq =>
    rw [String.append_assoc, ← operandText_jOffset b (by decide)]
    exact execRenders_of_pseudo rfl (by simp [encode, immBOf_packB _ _ _ _ _ hb])
      ((pseudoText_beq a a _).trans (if_pos rfl))
  case sll => exact execRenders_of_pseudo rfl (by simp [encode]) ((pseudoText_sll a a 0#5).trans (if_pos ⟨rfl, rfl⟩))
  case slli =>
    have h : ExecRenders (.slli a a 0#5 f7) s
        ("slli " ++ (regName a ++ ", " ++ regName a ++ ", ") ++ hexText (0#5).toNat) := execRenders_shift rfl rfl
    rw [show (0#5).toNat = 0 from rfl, hexText_zero] at h
    simpa [String.append_assoc] using h

/-- Settles O51: LUI and AUIPC share the U form, the five loads have one form and the three stores another. -/
theorem genericTextOfUpperAndMemoryForms : Obligations.GenericTextOfUpperAndMemoryForms := by
  intro s rd rs1 rs2 u o mem
  rw [show mem = operandText (.baseOffset rs1 (o.signExtend 16)) from (operandText_baseOffset rs1 o).symm]
  exact ⟨execRenders_upper rfl rfl, execRenders_upper rfl rfl,
    execRenders_load rfl rfl, execRenders_load rfl rfl, execRenders_load rfl rfl, execRenders_load rfl rfl,
    execRenders_load rfl rfl, execRenders_store rfl rfl, execRenders_store rfl rfl, execRenders_store rfl rfl⟩

/-- Settles O52: each instruction by the form of its layout; ADDI, BEQ and SLL where no pseudo rule applies. -/
theorem genericTextOfAluAndJumpForms : Obligations.GenericTextOfAluAndJumpForms := by
  intro s rd rs1 rs2 imm sh f3 f7 b j rest hb hj signed displacement regs
  have hsigned : signed = operandText (.imm (imm.signExtend 32)) := (operandText_imm imm).symm
  have hdispB : displacement b.toInt = operandText (.jOffset (b.signExtend 32)) :=
    (operandText_jOffset b (by decide)).symm
  have hdispJ : displacement j.toInt = operandText (.jOffset (j.signExtend 32)) :=
    (operandText_jOffset j (by decide)).symm
  rw [hsigned, hdispB, hdispJ]
  refine ⟨?jal, ?jalr, ?beq, ?bne, ?blt, ?bge, ?bltu, ?bgeu, ?addi, ?slti, ?sltiu, ?xori, ?ori, ?andi, ?slli, ?srli,
    ?srai, ?add, ?sub, ?sll, ?slt, ?sltu, ?xor, ?srl, ?sra, ?or, ?and, ?ecall, ?ebreak⟩
  case jal => exact execRenders_jal rfl hj rfl
  case beq => exact fun h => execRenders_branch rfl hb ((pseudoText_beq rs1 rs2 _).trans (if_neg h)) rfl
  case bne | blt | bge | bltu | bgeu => exact execRenders_branch rfl hb rfl rfl
  case addi => exact fun h => execRenders_imm rfl ((pseudoText_addi rd rs1 imm).trans (if_neg h)) rfl
  case jalr | slti | sltiu | xori | ori | andi => exact execRenders_imm rfl rfl rfl
  case slli | srli | srai => exact execRenders_shift rfl rfl
  case sll => exact fun h => execRenders_aluReg rfl ((pseudoText_sll rd rs1 rs2).trans (if_neg h)) rfl
  case add | sub | slt | sltu | xor | srl | sra | or | and => exact execRenders_aluReg rfl rfl rfl
  case ecall | ebreak => exact execRenders_system rfl rfl

end Sys2Proof.Machine
end

section
/-! PROOFS. The outcomes of a decode edge in the order of R140; that nothing stops the block (R139, R142): every edge
answers a next state, so every run does; and what an idle edge holds (R149). -/

namespace Sys2Proof.Machine

variable {s t : State}

/-! ### Which outcome a decode edge reports (R140) -/

/-- Unit 0 in the 16-bit space (R37). -/
theorem lenClass_eq_compressed16 {cu0 : CodeUnit} (hlow : cu0.extractLsb' 0 2 ≠ 0b11#2) :
    lenClass cu0 = .compressed16 :=
  if_pos hlow

/-- Unit 0 in the 48-bit-and-wider space (R37). -/
theorem lenClass_eq_wide48Plus {cu0 : CodeUnit} (hlow : cu0.extractLsb' 0 2 = 0b11#2)
    (hnext : cu0.extractLsb' 2 3 = 0b111#3) : lenClass cu0 = .wide48Plus := by
  rw [lenClass, if_neg (not_not.mpr hlow), if_pos hnext]

/-- Unit 0 of a word in the 32-bit class (R37). -/
theorem lenClass_eq_len32 {cu0 : CodeUnit} (hlow : cu0.extractLsb' 0 2 = 0b11#2)
    (hnext : cu0.extractLsb' 2 3 ≠ 0b111#3) : lenClass cu0 = .len32 := by
  rw [lenClass, if_neg (not_not.mpr hlow), if_neg hnext]

theorem unit1_of_not_avail {p : PortSample} (h : p.cu1Avail = false) : p.unit1 = none := by
  simp [PortSample.unit1, h]

/-- A decode edge whose units are rejected reports what the rejection's result holds. -/
theorem stepReports_of_reject {e : Reject} (hat : s.AtDecode)
    (hd : decodeUnits s.ports.unit0 s.ports.unit1 = .reject e) :
    StepReports s (rejectResult e).status (rejectResult e).ureason (rejectResult e).units := by
  refine ⟨_, step_of_atDecode hat, ?_⟩
  rw [hd]
  exact ⟨rfl, rfl, rfl⟩

/-- `Dispatch` of a word no row covers (R59). -/
theorem dispatchWord_of_uncovered {w : Word} (h : ∀ row ∈ opcodeTable, row.covers w = false) :
    dispatchWord w = .invalid := by
  rw [dispatchWord, List.find?_eq_none.mpr fun row hrow => by simp [h row hrow]]

/-- FENCE's row is the only one that fails (R114): outside its group a covered word is OK. -/
theorem row_ok_of_covers {row : TableRow} (hrow : row ∈ opcodeTable) {w : Word} (hcov : row.covers w = true)
    (hfence : majorOf w ≠ 0b0001111#7) : ∃ opc l, row.result = .ok opc l := by
  have hfail : ∀ row ∈ opcodeTable, row.result.opcode? = none → majorOf row.pattern = 0b0001111#7 := by decide
  cases hres : row.result with
  | ok opc l => exact ⟨opc, l, rfl⟩
  | fail kind reason =>
    exact absurd ((majorOf_of_covers hrow hcov).trans (hfail row hrow (by rw [hres]; rfl))) hfence

/-- Settles O29: the first three rows and the missing unit 1 are the rejections of the decoder's own tests; a whole word
is in the FENCE group, covered by no row, or covered by an OK row. -/
theorem errorPriority : Obligations.ErrorPriority := by
  intro s hat p w
  refine ⟨?noUnit0, ?compressed, ?wide, fun h0 hlow hnext => ?word⟩
  case noUnit0 =>
    intro h0
    exact stepReports_of_reject hat (unit0_of_not_avail h0 ▸ decodeUnits_none _)
  case compressed =>
    intro h0 hlow
    exact stepReports_of_reject hat (unit0_of_avail h0 ▸ decodeUnits_compressed (lenClass_eq_compressed16 hlow) _)
  case wide =>
    intro h0 hlow hnext
    exact stepReports_of_reject hat (unit0_of_avail h0 ▸ decodeUnits_wide (lenClass_eq_wide48Plus hlow hnext) _)
  case word =>
    have hclass : lenClass p.cu0 = .len32 := lenClass_eq_len32 hlow hnext
    have hword : lenClass (lowUnit w) = .len32 := by rwa [lowUnit_wordOfUnits]
    have presents (h1 : p.cu1Avail = true) : s.Presents w := ⟨hat, h0, h1, rfl⟩
    refine ⟨?noUnit1, ?fence, ?invalid, ?ok⟩
    case noUnit1 =>
      intro h1
      exact stepReports_of_reject hat (unit0_of_avail h0 ▸ unit1_of_not_avail h1 ▸ decodeUnits_short hclass)
    case fence => exact fun h1 hm => fenceGroupIsUnsupported s w (presents h1) hm
    case invalid => exact fun h1 _ hnone => stepReports_invalid (presents h1) hword (dispatchWord_of_uncovered hnone)
    case ok =>
      rintro h1 hm ⟨row, hrow, hcov⟩
      obtain ⟨opc, l, hres⟩ := row_ok_of_covers hrow hcov hm
      exact ⟨_, step_of_covers (presents h1) hrow hres hcov, rfl, rfl, rfl⟩

/-! ### Nothing stops the block (R142) -/

/-- Every edge answers the state of the register transfer of R21. -/
theorem step_completes (s : State) : s.Completes := ⟨_, stepIsTheRegisterTransfer s⟩

/-- Settles O26: what a decode edge latches is read from the ports, which the register's content does not change; its
status is one of the four by `decodeIsTotal`. -/
theorem everyDecodeEdgeWrites : Obligations.EveryDecodeEdgeWrites := by
  refine ⟨step_completes, fun s hat => ?_⟩
  obtain ⟨t, hstep, hstatus⟩ := decodeIsTotal s hat
  obtain rfl := Host.Outcome.next.inj ((step_of_atDecode hat).symm.trans hstep)
  exact ⟨_, hstatus.imp_left And.left, fun old => step_of_atDecode (s := s.latch old) hat⟩

theorem safeRun_zero (s : State) : SafeRun 0 s := ⟨s, rfl⟩

/-- A run goes on from the state that its first step answers. -/
theorem run_succ_of_step {M : Host.Core} {s t : M.State} (k : Nat) (h : M.step s = .next t) :
    M.run (k + 1) s = M.run k t := by
  rw [Host.Core.run, h]

theorem safeRun_succ {k : Nat} (hstep : step s = .next t) : SafeRun (k + 1) s ↔ SafeRun k t := by
  rw [SafeRun, SafeRun, run_succ_of_step (M := core) k hstep]

/-- Settles O27, by induction on the number of edges, from every state. -/
theorem everyRunIsSafe : Obligations.EveryRunIsSafe := by
  intro k
  induction k with
  | zero => exact safeRun_zero
  | succ k ih =>
    intro s
    obtain ⟨t, hstep⟩ := step_completes s
    exact (safeRun_succ hstep).mpr (ih t)

/-! ### An idle edge -/

/-- Settles O25: of the four edges of a step only the idle one is possible, and it uses up the port sample alone. -/
theorem idleHolds : Obligations.IdleHolds := by
  intro s hrst hreq
  rcases step_edges s with ⟨hr, -⟩ | ⟨-, hq, -⟩ | ⟨-, hq, -⟩ | ⟨-, -, hs⟩
  · simp [hrst] at hr
  · simp [hreq] at hq
  · simp [hreq] at hq
  · exact ⟨s.tick, hs, tick_result s, outputs_eq_of_result_eq (tick_result s), tick_inputs s⟩

end Sys2Proof.Machine
end

section
/-! PROOFS. What a reset edge leaves (R151, R152); that the power-up draw is gone after one decode (R153); and `Walk`
(R156), whose loop decodes the two units at its cursor and goes on from behind those it has read, so that it reaches the
end of the stream. -/

namespace Sys2Proof.Machine

/-! ### Reset and power-up -/

/-- A reset edge; `rst` wins over `req` (R151). -/
theorem step_of_rst {s : State} (h : s.ports.rst = true) : step s = .next s.tick.resetRegister := by
  rw [step, clockEdge, if_pos h]

/-- Settles O24: the register is `ResultReg.reset`, whose specs are all Nothing. -/
theorem resetWinsOverRequest : Obligations.ResetWinsOverRequest :=
  fun _ hrst => ⟨_, step_of_rst hrst, rfl, rfl, rfl, rfl, rfl, rfl⟩

/-- An edge with `req = 1` writes every field, so nothing is left of the register before it. -/
theorem registerAfterEdge_of_req {p : PortSample} (h : p.req = true) (r r' : ResultReg) :
    registerAfterEdge p r = registerAfterEdge p r' := by
  unfold registerAfterEdge
  rw [if_pos h, if_pos h]

/-- Settles O41: the two states differ in the register alone, which the edge overwrites. -/
theorem firstDecodeRemovesThePowerUpDraw : Obligations.FirstDecodeRemovesThePowerUpDraw := by
  intro p rest hreq
  rw [stepIsTheRegisterTransfer, stepIsTheRegisterTransfer]
  have hreg := registerAfterEdge_of_req hreq (State.powerUp (p :: rest)).result .reset
  exact congrArg (fun r => Host.Outcome.next (State.mk r rest)) hreg

/-! ### One decode of `Walk` -/

/-- The register after the decode of the two units at a cursor. -/
def cursorResult (bytes : List Byte) (cur : Nat) : ResultReg :=
  decodedResult (decodeUnits (unitAt bytes cur) (unitAt bytes (cur + 1)))

/-- It is R39's `Decode` of those units. -/
theorem cursorResult_eq_decodeRegister (bytes : List Byte) (cur : Nat) :
    cursorResult bytes cur =
      decodeRegister ((unitAt bytes cur).getD 0) (unitAt bytes cur).isSome
        ((unitAt bytes (cur + 1)).getD 0) (unitAt bytes (cur + 1)).isSome := by
  have h := decodeRegister_eq_decodedResult (walkPorts bytes cur)
  rw [walkPorts, decodeEdge_unit0, decodeEdge_unit1] at h
  exact h.symm

/-- The step at the ports of a cursor latches its result and uses up that sample alone. -/
theorem step_walkPorts (bytes : List Byte) (cur : Nat) (s : State) :
    step (s.drive (walkPorts bytes cur)) = .next (s.latch (cursorResult bytes cur)) := by
  have hat : (s.drive (walkPorts bytes cur)).AtDecode := ⟨rfl, rfl⟩
  rw [step_of_atDecode hat, drive_ports, walkPorts, decodeEdge_unit0, decodeEdge_unit1]
  rfl

@[simp] theorem decodeWordResult_units (w : Word) : (decodeWordResult w).units = 2#2 := by
  rw [decodeWordResult_eq]
  cases dispatchWord w <;> rfl

/-- A decode that is not StreamExhausted (code 2) has read the units that `Walk` steps over: unit 0 alone, or both. -/
theorem units_read_of_not_exhausted {u0 u1 : Option CodeUnit}
    (h : (decodedResult (decodeUnits u0 u1)).status ≠ 2#3) :
    (u0 ≠ none ∧ walkAdvance (decodedResult (decodeUnits u0 u1)) = 1) ∨
    (u1 ≠ none ∧ walkAdvance (decodedResult (decodeUnits u0 u1)) = 2) := by
  cases u0 with
  | none => exact absurd rfl h
  | some cu0 =>
    cases hl : lenClass cu0 with
    | compressed16 => exact .inl ⟨nofun, by rw [decodeUnits_compressed hl]; rfl⟩
    | wide48Plus => exact .inl ⟨nofun, by rw [decodeUnits_wide hl]; rfl⟩
    | len32 =>
      cases u1 with
      | none => exact absurd (by rw [decodeUnits_short hl]; rfl) h
      | some cu1 =>
        refine .inr ⟨nofun, ?_⟩
        rw [decodeUnits_whole hl, ← decodeWordResult_eq_decodedResult, walkAdvance, decodeWordResult_units]
        rfl

/-- After a decode that is not StreamExhausted the next cursor is no further than the number of whole units. -/
theorem next_cursor_le {bytes : List Byte} {cur : Nat} (h : (cursorResult bytes cur).status ≠ 2#3) :
    cur + walkAdvance (cursorResult bytes cur) ≤ bytes.length / 2 := by
  rcases units_read_of_not_exhausted h with ⟨hu, hadv⟩ | ⟨hu, hadv⟩
  all_goals
    have hlen := mt unitAt_eq_none.mpr hu
    rw [cursorResult, hadv]
    omega

/-! ### The loop of `Walk` -/

section
variable (bytes : List Byte) (fuel cur : Nat) (s : State)

/-- The loop goes on from the next cursor, with the state the decode has left. -/
def walkRest : List WalkEntry × State :=
  walkLoop bytes fuel (cur + walkAdvance (cursorResult bytes cur)) (s.latch (cursorResult bytes cur))

theorem walkLoop_of_exhausted {cur : Nat} (h : (cursorResult bytes cur).status = 2#3) :
    walkLoop bytes (fuel + 1) cur s = ([⟨cur, cursorResult bytes cur⟩], s.latch (cursorResult bytes cur)) := by
  rw [walkLoop, step_walkPorts]
  exact if_pos h

theorem walkLoop_of_not_exhausted {cur : Nat} (h : (cursorResult bytes cur).status ≠ 2#3) :
    walkLoop bytes (fuel + 1) cur s =
      (⟨cur, cursorResult bytes cur⟩ :: (walkRest bytes fuel cur s).1, (walkRest bytes fuel cur s).2) := by
  rw [walkLoop, step_walkPorts]
  exact if_neg h

/-- `Walk` is the loop from cursor 0 after the reset edge. -/
theorem walk_eq_walkLoop : walk bytes s = walkLoop bytes (bytes.length / 2 + 1) 0 s.resetRegister := by
  rw [walk, step_of_rst rfl, drive_tick]

end

/-- With fuel for every whole unit from the cursor on, the loop ends on its first StreamExhausted. -/
theorem walkLoop_stops {bytes : List Byte} {fuel cur : Nat} (s : State) (hcur : cur ≤ bytes.length / 2)
    (hfuel : bytes.length / 2 < cur + fuel) :
    ∃ (before : List WalkEntry) (last : WalkEntry), (walkLoop bytes fuel cur s).1 = before ++ [last] ∧
      last.result.status = 2#3 ∧ (∀ e ∈ before, e.result.status ≠ 2#3) ∧
      cur + before.length ≤ bytes.length / 2 ∧ (walkLoop bytes fuel cur s).2.result = last.result := by
  induction fuel generalizing cur s with
  | zero => omega
  | succ fuel ih =>
    by_cases h : (cursorResult bytes cur).status = 2#3
    · rw [walkLoop_of_exhausted bytes fuel s h]
      exact ⟨[], ⟨cur, cursorResult bytes cur⟩, rfl, h, nofun, hcur, rfl⟩
    · have hadv : 1 ≤ walkAdvance (cursorResult bytes cur) := Nat.le_max_right ..
      obtain ⟨before, last, htrace, hlast, hbefore, hlen, hreg⟩ :=
        ih (s.latch (cursorResult bytes cur)) (next_cursor_le h) (by omega)
      rw [walkLoop_of_not_exhausted bytes fuel s h, walkRest]
      refine ⟨⟨cur, cursorResult bytes cur⟩ :: before, last, ?_, hlast, ?_, ?_, hreg⟩
      · rw [htrace, List.cons_append]
      · exact List.forall_mem_cons.mpr ⟨h, hbefore⟩
      · rw [List.length_cons]; omega

/-- Settles O55: the loop of `Walk` starts at cursor 0 with one decode more than there are whole units. -/
theorem walkAlwaysStops : Obligations.WalkAlwaysStops := by
  intro bytes s
  obtain ⟨before, last, htrace, hlast, hbefore, hlen, hreg⟩ :=
    walkLoop_stops (bytes := bytes) (cur := 0) s.resetRegister (Nat.zero_le _)
      (show bytes.length / 2 < 0 + (bytes.length / 2 + 1) by omega)
  rw [walk_eq_walkLoop]
  exact ⟨before, last, htrace, hlast, hbefore, by omega, hreg⟩

/-! ### The trace of `Walk` -/

section
variable (bytes : List Byte) (fuel cur : Nat) (s : State)

/-- The first entry is the decode at the cursor. -/
theorem walkLoop_head : (walkLoop bytes (fuel + 1) cur s).1.head? = some ⟨cur, cursorResult bytes cur⟩ := by
  by_cases h : (cursorResult bytes cur).status = 2#3
  · rw [walkLoop_of_exhausted bytes fuel s h]; rfl
  · rw [walkLoop_of_not_exhausted bytes fuel s h]; rfl

theorem cur_of_mem_walkLoop_head : ∀ e ∈ (walkLoop bytes fuel cur s).1.head?, e.cur = cur := by
  cases fuel with
  | zero => nofun
  | succ fuel =>
    rw [walkLoop_head]
    rintro _ ⟨⟩
    rfl

/-- Every entry is the decode at its own cursor. -/
theorem result_of_mem_walkLoop : ∀ e ∈ (walkLoop bytes fuel cur s).1, e.result = cursorResult bytes e.cur := by
  induction fuel generalizing cur s with
  | zero => nofun
  | succ fuel ih =>
    by_cases h : (cursorResult bytes cur).status = 2#3
    · rw [walkLoop_of_exhausted bytes fuel s h]
      exact List.forall_mem_singleton.mpr rfl
    · rw [walkLoop_of_not_exhausted bytes fuel s h]
      exact List.forall_mem_cons.mpr ⟨rfl, ih _ _⟩

/-- Each cursor is the one before it, moved on by the units its decode has read, at least one. -/
theorem walkLoop_isChain :
    (walkLoop bytes fuel cur s).1.IsChain (fun a b => b.cur = a.cur + max a.result.units.toNat 1) := by
  induction fuel generalizing cur s with
  | zero => exact .nil
  | succ fuel ih =>
    by_cases h : (cursorResult bytes cur).status = 2#3
    · rw [walkLoop_of_exhausted bytes fuel s h]
      exact .singleton _
    · rw [walkLoop_of_not_exhausted bytes fuel s h]
      exact List.isChain_cons.mpr ⟨cur_of_mem_walkLoop_head _ _ _ _, ih _ _⟩

end

/-- Settles O56: the loop's first cursor, the result of each entry and each next cursor, for the loop of `Walk`. -/
theorem walkFollowsItsRule : Obligations.WalkFollowsItsRule := by
  intro bytes s
  rw [walk_eq_walkLoop]
  refine ⟨?_, fun e he => ?_, walkLoop_isChain ..⟩
  · rw [walkLoop_head]; rfl
  · rw [result_of_mem_walkLoop bytes _ _ _ e he, cursorResult_eq_decodeRegister]

end Sys2Proof.Machine
end
